-- ==== Sys2Proof/Word.lean ====
section
/-! DEFINITION. The fixed widths of the block's words (10_state.md R11, R13; 30_encoding.md R60, R62 to R64). -/

namespace Sys2Proof

/-- A command word carried by a `CMD` transaction (30_encoding.md R60). -/
abbrev CmdWord := BitVec 16

/-- The operand field `imm8` of a command word (R60, R61). -/
abbrev Imm8 := BitVec 8

/-- A character code (30_encoding.md R62). -/
abbrev Code := BitVec 8

/-- A nine-module pattern; bit 8 is the first module (30_encoding.md R64, 00_scope.md R7). -/
abbrev Pattern := BitVec 9

/-- A symbol value as the registers hold it (30_encoding.md R63). -/
abbrev SymVal := BitVec 6

end Sys2Proof
end

