-- ==== Sys2Proof/Config.lean ====
section
/-! DEFINITION. What the implementation fixes (00_scope.md R6): the parameters `TEXT_MAX`, `NUM` and `COLOUR`. -/

namespace Sys2Proof

/-- The number domain `NUM` as the rules use it: the operations and the two predicates of
44_geometric_scaler.md R160, with no algebraic law. Every function of Layer F that computes with numbers takes one of these, so
that it is stated for every `NUM`. -/
structure NumDomain (α : Type) where
  ofNat : Nat → α
  add : α → α → α
  mul : α → α → α
  div : α → α → α
  /-- true exactly when the value is finite and greater than zero -/
  pos : α → Bool
  /-- true exactly when the value is finite -/
  fin : α → Bool

/-- Which `NUM` one block computes in: a parameter (log 4). The rationals and binary64 are the two that table R6-T names, and R160
calls a fixed-point one equally admissible; `other` is any further one. -/
inductive NumFormat where
  /-- the rationals, the reference -/
  | exact
  /-- IEEE 754 binary64 (log 6) -/
  | binary64
  /-- binary fixed point with this many fraction bits (log 23) -/
  | fixedPoint (fractionBits : Nat)
  /-- The admissible domain number `id`. Its values are the tokens 0 to `last`, or every token where `last` is none, and its
  operations are the uninterpreted constants below (log 5). -/
  | other (id : Nat) (last : Option Nat)
  deriving DecidableEq, Repr

/-- A value of `NUM`, as plain data. In the formats `exact` and `fixedPoint` every value is a `rat`; `negZero`, `inf` and `nan` are
the values that binary64 has beside the rationals, with one not-a-number; a `token` is a value of an `other` domain (log 5, log 6). -/
inductive Number where
  | rat (q : ℚ)
  | negZero
  | inf (neg : Bool)
  | nan
  | token (n : Nat)
  deriving DecidableEq, Repr

/-! ## The operations of an `other` number domain

Constants without a body, applied to the number of the domain: whatever is proved of a block with such a `NUM` holds for every choice
of the operations, and no algebraic law can be used (R160). -/

/-- `ofNat` of domain `id`. -/
opaque Config.otherOfNat (id n : Nat) : Nat

/-- `add` of domain `id`. -/
opaque Config.otherAdd (id a b : Nat) : Nat

/-- `mul` of domain `id`. -/
opaque Config.otherMul (id a b : Nat) : Nat

/-- `div` of domain `id`. -/
opaque Config.otherDiv (id a b : Nat) : Nat

/-- Whether a value of domain `id` is finite. -/
opaque Config.otherFinite (id a : Nat) : Bool

/-- Whether a finite value of domain `id` is greater than zero. -/
opaque Config.otherAboveZero (id a : Nat) : Bool

/-- A colour token, carried unchanged (R6-T; 10_state.md R26): a string, or a token of another type (log 8). -/
inductive Colour where
  | text (s : String)
  | token (n : Nat)
  deriving DecidableEq, Repr

/-- Which type `COLOUR` is: strings, the reference, or a type that has, beside `"#000"`, as many tokens as `others` says, without an
end where it is none. Nothing computes with a colour, so that this is every countable type containing `"#000"` (log 8). -/
inductive ColourFormat where
  | strings
  | tokens (others : Option Nat)
  deriving DecidableEq, Repr

/-- The parameters of one block. `textMax = none` is the `∞` of R6-T. -/
structure Config where
  textMax : Option Nat
  num : NumFormat
  colour : ColourFormat
  deriving DecidableEq, Repr

/-- The constraint of table R6-T on `TEXT_MAX`: at least 1, or unbounded. The constraints on `NUM` and `COLOUR` hold of every
format. -/
abbrev Config.Legal (c : Config) : Prop := c.textMax ≠ some 0

/-- The reference values of table R6-T: `TEXT_MAX = ∞`, `NUM = ℚ`, `COLOUR` = strings. DESIGN CHOICE (log 4). -/
def Config.reference : Config := { textMax := none, num := .exact, colour := .strings }

end Sys2Proof
end

