-- ==== Sys2Proof/Syntax.lean ====
section
/-! DEFINITION. The instructions: one constructor per row of spec/opcode_table.json. -/

namespace Sys2Proof

/-- The rows of the opcode table: the eight commands of format `CMD16` (30_encoding.md, table R66-T), each with its operand field
`imm8` as the word holds it (R61), and the 48 symbol rows of format `SYM9` (40_symbol_table.md R101 to R105), in ROM order. A
symbol row is no command: it is one element of `SYMROM` (log 10). -/
inductive Instr where
  /-- `CLR`: begin a fresh text (42_pattern_encoder.md R132) -/
  | clr
  /-- `PUSH cc`: append one character code (R131) -/
  | push (cc : Imm8)
  /-- `LUC cc`: look up a symbol by character code (40_symbol_table.md R106) -/
  | luc (cc : Imm8)
  /-- `LUV vv`: look up a symbol by value (R107) -/
  | luv (vv : Imm8)
  /-- `CSUM mm`: one checksum stage with `maxWeight = mm` (41_checksum.md R124) -/
  | csum (mm : Imm8)
  /-- `ENC`: encode the current text (42_pattern_encoder.md R133) -/
  | enc
  /-- `RUNS`: derive the runs (43_run_encoder.md R151) -/
  | runs
  /-- `GEOM`: derive the geometry (44_geometric_scaler.md R163) -/
  | geom
  -- digits (R101)
  | sym0
  | sym1
  | sym2
  | sym3
  | sym4
  | sym5
  | sym6
  | sym7
  | sym8
  | sym9
  -- letters (R102)
  | symA
  | symB
  | symC
  | symD
  | symE
  | symF
  | symG
  | symH
  | symI
  | symJ
  | symK
  | symL
  | symM
  | symN
  | symO
  | symP
  | symQ
  | symR
  | symS
  | symT
  | symU
  | symV
  | symW
  | symX
  | symY
  | symZ
  -- punctuation: - . space $ / + % (R103)
  | symMinus
  | symDot
  | symSpace
  | symDollar
  | symSlash
  | symPlus
  | symPercent
  -- checksum-only: ($) (%) (/) (+) (R104)
  | symCheckDollar
  | symCheckPercent
  | symCheckSlash
  | symCheckPlus
  -- the sentinel (R105)
  | symSentinel
  deriving DecidableEq, Repr

end Sys2Proof
end

