-- ==== Sys2Proof/WellFormed.lean ====
section
/-! DEFINITION. Which instructions have a legal operand (30_encoding.md R61). Every constructor has an encoding whatever its operand;
what R61 limits is the operand's domain, and an instruction outside it is a legal word that responds `IllegalOperand` when it
executes (R66, R70; log 21). -/

namespace Sys2Proof

/-- R61: "For `LUV` it is a symbol value; values 0 to 46 are legal. For `CSUM` it is `maxWeight`; values 1 to 255 are legal." Any
character code is an operand of `PUSH` and `LUC`. -/
def Instr.wellFormed : Instr → Bool
  | .clr => true
  | .push _ => true
  | .luc _ => true
  | .luv vv => decide (vv.toNat ≤ 46)
  | .csum mm => decide (1 ≤ mm.toNat)
  | .enc => true
  | .runs => true
  | .geom => true
  | .sym0 => true
  | .sym1 => true
  | .sym2 => true
  | .sym3 => true
  | .sym4 => true
  | .sym5 => true
  | .sym6 => true
  | .sym7 => true
  | .sym8 => true
  | .sym9 => true
  | .symA => true
  | .symB => true
  | .symC => true
  | .symD => true
  | .symE => true
  | .symF => true
  | .symG => true
  | .symH => true
  | .symI => true
  | .symJ => true
  | .symK => true
  | .symL => true
  | .symM => true
  | .symN => true
  | .symO => true
  | .symP => true
  | .symQ => true
  | .symR => true
  | .symS => true
  | .symT => true
  | .symU => true
  | .symV => true
  | .symW => true
  | .symX => true
  | .symY => true
  | .symZ => true
  | .symMinus => true
  | .symDot => true
  | .symSpace => true
  | .symDollar => true
  | .symSlash => true
  | .symPlus => true
  | .symPercent => true
  | .symCheckDollar => true
  | .symCheckPercent => true
  | .symCheckSlash => true
  | .symCheckPlus => true
  | .symSentinel => true

end Sys2Proof
end

