-- ==== Sys2Proof/Decode.lean ====
section
/-! DEFINITION. The encodings (30_encoding.md R60 to R72, 40_symbol_table.md R101 to R105): the symbol table, the decoder, and after
it the encoder. Both are total; the decoder rejects by name. -/

namespace Sys2Proof

/-! ## The symbol table -/

/-- One row of the tables R101-T to R104-T and of R105. A row's position in `symbolRows` is its ROM index, which for the first 47
is the symbol's value (10_state.md R14, R15). -/
structure SymbolRow where
  row : Instr
  code : Code
  pattern : Pattern
  deriving DecidableEq, Repr

/-- Table R101-T (values 0 to 9). The patterns of these four tables are the spec's, from general knowledge. PRESUMED (log 9). -/
def digitRows : List SymbolRow :=
  [⟨.sym0, 0x30#8, 0b100010100#9⟩,
   ⟨.sym1, 0x31#8, 0b101001000#9⟩,
   ⟨.sym2, 0x32#8, 0b101000100#9⟩,
   ⟨.sym3, 0x33#8, 0b101000010#9⟩,
   ⟨.sym4, 0x34#8, 0b100101000#9⟩,
   ⟨.sym5, 0x35#8, 0b100100100#9⟩,
   ⟨.sym6, 0x36#8, 0b100100010#9⟩,
   ⟨.sym7, 0x37#8, 0b101010000#9⟩,
   ⟨.sym8, 0x38#8, 0b100010010#9⟩,
   ⟨.sym9, 0x39#8, 0b100001010#9⟩]

/-- Table R102-T, first half (values 10 to 22). -/
def letterRowsAtoM : List SymbolRow :=
  [⟨.symA, 0x41#8, 0b110101000#9⟩,
   ⟨.symB, 0x42#8, 0b110100100#9⟩,
   ⟨.symC, 0x43#8, 0b110100010#9⟩,
   ⟨.symD, 0x44#8, 0b110010100#9⟩,
   ⟨.symE, 0x45#8, 0b110010010#9⟩,
   ⟨.symF, 0x46#8, 0b110001010#9⟩,
   ⟨.symG, 0x47#8, 0b101101000#9⟩,
   ⟨.symH, 0x48#8, 0b101100100#9⟩,
   ⟨.symI, 0x49#8, 0b101100010#9⟩,
   ⟨.symJ, 0x4A#8, 0b100110100#9⟩,
   ⟨.symK, 0x4B#8, 0b100011010#9⟩,
   ⟨.symL, 0x4C#8, 0b101011000#9⟩,
   ⟨.symM, 0x4D#8, 0b101001100#9⟩]

/-- Table R102-T, second half (values 23 to 35). -/
def letterRowsNtoZ : List SymbolRow :=
  [⟨.symN, 0x4E#8, 0b101000110#9⟩,
   ⟨.symO, 0x4F#8, 0b100101100#9⟩,
   ⟨.symP, 0x50#8, 0b100010110#9⟩,
   ⟨.symQ, 0x51#8, 0b110110100#9⟩,
   ⟨.symR, 0x52#8, 0b110110010#9⟩,
   ⟨.symS, 0x53#8, 0b110101100#9⟩,
   ⟨.symT, 0x54#8, 0b110100110#9⟩,
   ⟨.symU, 0x55#8, 0b110010110#9⟩,
   ⟨.symV, 0x56#8, 0b110011010#9⟩,
   ⟨.symW, 0x57#8, 0b101101100#9⟩,
   ⟨.symX, 0x58#8, 0b101100110#9⟩,
   ⟨.symY, 0x59#8, 0b100110110#9⟩,
   ⟨.symZ, 0x5A#8, 0b100111010#9⟩]

/-- Table R103-T (values 36 to 42). -/
def punctuationRows : List SymbolRow :=
  [⟨.symMinus, 0x2D#8, 0b100101110#9⟩,
   ⟨.symDot, 0x2E#8, 0b111010100#9⟩,
   ⟨.symSpace, 0x20#8, 0b111010010#9⟩,
   ⟨.symDollar, 0x24#8, 0b111001010#9⟩,
   ⟨.symSlash, 0x2F#8, 0b101101110#9⟩,
   ⟨.symPlus, 0x2B#8, 0b101110110#9⟩,
   ⟨.symPercent, 0x25#8, 0b110101110#9⟩]

/-- Table R104-T (values 43 to 46). PRESUMED (log 9). -/
def checkRows : List SymbolRow :=
  [⟨.symCheckDollar, 0xA4#8, 0b100100110#9⟩,
   ⟨.symCheckPercent, 0xA5#8, 0b111011010#9⟩,
   ⟨.symCheckSlash, 0xAF#8, 0b111010110#9⟩,
   ⟨.symCheckPlus, 0xAB#8, 0b100110010#9⟩]

/-- The sentinel, ROM index 47, which has a pattern and no value (R105). -/
def sentinelRows : List SymbolRow :=
  [⟨.symSentinel, 0xFF#8, 0b101011110#9⟩]

/-- The whole table in ROM order: 47 valued symbols and the sentinel (R100). -/
def symbolRows : List SymbolRow :=
  digitRows ++ letterRowsAtoM ++ letterRowsNtoZ ++ punctuationRows ++ checkRows ++ sentinelRows

/-! ## Decoding -/

/-- Why a bit pattern is no row of the opcode table (30_encoding.md R70). The names are the model's own; the block reports all
of them as `IllegalCommand` (log 22). -/
inductive Illegal where
  /-- `op` is 0x8 to 0xF (R70 (a)) -/
  | reservedOpcode
  /-- `rsv` is not 0000 (R70 (b)) -/
  | reservedField
  /-- a command without operand has a non-zero `imm8` (R70 (c)) -/
  | operandNotZero
  /-- nine bits that are the pattern of no symbol (40_symbol_table.md R110 (c)) -/
  | noSuchPattern
  deriving DecidableEq, Repr

/-- The decoder's answer. -/
inductive Decoded where
  | instr (i : Instr)
  | illegal (why : Illegal)
  deriving DecidableEq, Repr

/-- The bits of a row of the opcode table, by format. -/
inductive Encoding where
  | cmd16 (w : CmdWord)
  | sym9 (p : Pattern)
  deriving DecidableEq, Repr

/-- `op = word[15:12]` (R60). -/
def opField (w : CmdWord) : BitVec 4 := w.extractLsb' 12 4

/-- `rsv = word[11:8]` (R60). -/
def rsvField (w : CmdWord) : BitVec 4 := w.extractLsb' 8 4

/-- `imm8 = word[7:0]` (R60). -/
def immField (w : CmdWord) : Imm8 := w.extractLsb' 0 8

/-- A command without operand: `imm8` must be zero (R61, R70 (c)). -/
def noOperand (i : Instr) (imm : Imm8) : Decoded :=
  if imm = 0#8 then .instr i else .illegal .operandNotZero

/-- Which command an `op` and an `imm8` name, given that `rsv` is zero (table R66-T). -/
def decodeOp (op : BitVec 4) (imm : Imm8) : Decoded :=
  match op.toNat with
  | 0 => noOperand .clr imm
  | 1 => .instr (.push imm)
  | 2 => .instr (.luc imm)
  | 3 => .instr (.luv imm)
  | 4 => .instr (.csum imm)
  | 5 => noOperand .enc imm
  | 6 => noOperand .runs imm
  | 7 => noOperand .geom imm
  | _ => .illegal .reservedOpcode

/-- The decoder of command words: total, one of the eight commands or illegal (R66, R70, R71). -/
def decodeCmd (w : CmdWord) : Decoded :=
  if rsvField w = 0#4 then decodeOp (opField w) (immField w) else .illegal .reservedField

/-- The symbol row whose pattern the nine bits are; the 48 patterns are pairwise distinct (40_symbol_table.md R110 (c)). -/
def decodeSym (p : Pattern) : Decoded :=
  match symbolRows.find? (fun r => r.pattern == p) with
  | some r => .instr r.row
  | none => .illegal .noSuchPattern

/-- The decoder over both formats of the opcode table. -/
def decode : Encoding → Decoded
  | .cmd16 w => decodeCmd w
  | .sym9 p => decodeSym p

/-! ## Encoding -/

/-- The word of a command: `op`, a zero `rsv` and `imm8` (R60). -/
def cmdWord (op : BitVec 4) (imm : Imm8) : CmdWord := op ++ (0#4 ++ imm)

/-- The encoder: the words of table R66-T, and for the symbol rows the integer column of the tables R101-T to R104-T and R105
(`symbolRows` is written from their binary column). -/
def encode : Instr → Encoding
  | .clr => .cmd16 (cmdWord 0x0#4 0#8)
  | .push cc => .cmd16 (cmdWord 0x1#4 cc)
  | .luc cc => .cmd16 (cmdWord 0x2#4 cc)
  | .luv vv => .cmd16 (cmdWord 0x3#4 vv)
  | .csum mm => .cmd16 (cmdWord 0x4#4 mm)
  | .enc => .cmd16 (cmdWord 0x5#4 0#8)
  | .runs => .cmd16 (cmdWord 0x6#4 0#8)
  | .geom => .cmd16 (cmdWord 0x7#4 0#8)
  | .sym0 => .sym9 0x114#9
  | .sym1 => .sym9 0x148#9
  | .sym2 => .sym9 0x144#9
  | .sym3 => .sym9 0x142#9
  | .sym4 => .sym9 0x128#9
  | .sym5 => .sym9 0x124#9
  | .sym6 => .sym9 0x122#9
  | .sym7 => .sym9 0x150#9
  | .sym8 => .sym9 0x112#9
  | .sym9 => .sym9 0x10A#9
  | .symA => .sym9 0x1A8#9
  | .symB => .sym9 0x1A4#9
  | .symC => .sym9 0x1A2#9
  | .symD => .sym9 0x194#9
  | .symE => .sym9 0x192#9
  | .symF => .sym9 0x18A#9
  | .symG => .sym9 0x168#9
  | .symH => .sym9 0x164#9
  | .symI => .sym9 0x162#9
  | .symJ => .sym9 0x134#9
  | .symK => .sym9 0x11A#9
  | .symL => .sym9 0x158#9
  | .symM => .sym9 0x14C#9
  | .symN => .sym9 0x146#9
  | .symO => .sym9 0x12C#9
  | .symP => .sym9 0x116#9
  | .symQ => .sym9 0x1B4#9
  | .symR => .sym9 0x1B2#9
  | .symS => .sym9 0x1AC#9
  | .symT => .sym9 0x1A6#9
  | .symU => .sym9 0x196#9
  | .symV => .sym9 0x19A#9
  | .symW => .sym9 0x16C#9
  | .symX => .sym9 0x166#9
  | .symY => .sym9 0x136#9
  | .symZ => .sym9 0x13A#9
  | .symMinus => .sym9 0x12E#9
  | .symDot => .sym9 0x1D4#9
  | .symSpace => .sym9 0x1D2#9
  | .symDollar => .sym9 0x1CA#9
  | .symSlash => .sym9 0x16E#9
  | .symPlus => .sym9 0x176#9
  | .symPercent => .sym9 0x1AE#9
  | .symCheckDollar => .sym9 0x126#9
  | .symCheckPercent => .sym9 0x1DA#9
  | .symCheckSlash => .sym9 0x1D6#9
  | .symCheckPlus => .sym9 0x132#9
  | .symSentinel => .sym9 0x15E#9

/-- The ROM index of a symbol row, which is its value for all rows but the sentinel's (10_state.md R14; the table's
`rom_index`); a command has none. -/
def Instr.romIndex : Instr → Option Nat
  | .clr => none
  | .push _ => none
  | .luc _ => none
  | .luv _ => none
  | .csum _ => none
  | .enc => none
  | .runs => none
  | .geom => none
  | .sym0 => some 0
  | .sym1 => some 1
  | .sym2 => some 2
  | .sym3 => some 3
  | .sym4 => some 4
  | .sym5 => some 5
  | .sym6 => some 6
  | .sym7 => some 7
  | .sym8 => some 8
  | .sym9 => some 9
  | .symA => some 10
  | .symB => some 11
  | .symC => some 12
  | .symD => some 13
  | .symE => some 14
  | .symF => some 15
  | .symG => some 16
  | .symH => some 17
  | .symI => some 18
  | .symJ => some 19
  | .symK => some 20
  | .symL => some 21
  | .symM => some 22
  | .symN => some 23
  | .symO => some 24
  | .symP => some 25
  | .symQ => some 26
  | .symR => some 27
  | .symS => some 28
  | .symT => some 29
  | .symU => some 30
  | .symV => some 31
  | .symW => some 32
  | .symX => some 33
  | .symY => some 34
  | .symZ => some 35
  | .symMinus => some 36
  | .symDot => some 37
  | .symSpace => some 38
  | .symDollar => some 39
  | .symSlash => some 40
  | .symPlus => some 41
  | .symPercent => some 42
  | .symCheckDollar => some 43
  | .symCheckPercent => some 44
  | .symCheckSlash => some 45
  | .symCheckPlus => some 46
  | .symSentinel => some 47

/-! ## The opcode table's own numbering -/

/-- The bits of one table row, `nbits` wide and numbered from 0, as one of the two formats. A number that is a legal command word
is that command; any other number below 512 is nine bits of format `SYM9`. The two do not meet: every pattern has bit 8 set, so
as a command word it has a non-zero `rsv` and is illegal. DESIGN CHOICE (log 11). -/
def tableEncoding (nbits w : Nat) : Option Encoding :=
  if 2 ^ nbits ≤ w ∨ 2 ^ 16 ≤ w then none
  else
    match decodeCmd (BitVec.ofNat 16 w), decodeSym (BitVec.ofNat 9 w) with
    | .illegal _, .instr _ => if w < 2 ^ 9 then some (.sym9 (BitVec.ofNat 9 w)) else some (.cmd16 (BitVec.ofNat 16 w))
    | _, _ => some (.cmd16 (BitVec.ofNat 16 w))

/-- The instruction the decoder reads from a table row's bits. -/
def decodeTableWord (nbits w : Nat) : Option Instr :=
  match (tableEncoding nbits w).map decode with
  | some (.instr i) => some i
  | some (.illegal _) => none
  | none => none

end Sys2Proof
end

