-- ==== Sys2Proof/Machine/Number.lean ====
section
/-! DEFINITION. The number domains (44_geometric_scaler.md R160): the rationals, fixed point, IEEE 754 binary64 with
round-to-nearest-even, and any other. -/

namespace Sys2Proof.Machine

/-! ## The rationals -/

/-- `NUM = ℚ`, the reference instance of R160: exact operations, every value finite. -/
def ratDomain : NumDomain ℚ where
  ofNat := fun n => (n : ℚ)
  add := fun a b => a + b
  mul := fun a b => a * b
  div := fun a b => a / b
  pos := fun a => decide (0 < a)
  fin := fun _ => true

/-- An operation of ℚ on values of `Number`. Values that are not rational are no values of this format (log 5). -/
def liftRat (f : ℚ → ℚ → ℚ) : Number → Number → Number
  | .rat a, .rat b => .rat (f a b)
  | _, _ => .nan

/-- The sign test of a rational number domain. -/
def posRat : Number → Bool
  | .rat q => ratDomain.pos q
  | .negZero => false
  | .inf _ => false
  | .nan => false
  | .token _ => false

/-- The finiteness test of a rational number domain. -/
def finRat : Number → Bool
  | .rat q => ratDomain.fin q
  | .negZero => false
  | .inf _ => false
  | .nan => false
  | .token _ => false

/-- The domain `ratDomain` as an operation set over the machine's values. -/
def exactDomain : NumDomain Number where
  ofNat := fun n => .rat (ratDomain.ofNat n)
  add := liftRat ratDomain.add
  mul := liftRat ratDomain.mul
  div := liftRat ratDomain.div
  pos := posRat
  fin := finRat

/-! ## Fixed point

"A fixed-point instance is equally admissible" (R160), which fixes no rounding. DESIGN CHOICE (log 23): the exact result, cut down to
the next multiple of `1 / 2^fractionBits`, without an upper end. -/

/-- The greatest multiple of `1 / 2^fractionBits` that is not above `q`. -/
def roundDown (fractionBits : Nat) (q : ℚ) : ℚ := mkRat (q * ((2 ^ fractionBits : Nat) : ℚ)).floor (2 ^ fractionBits)

/-- `NUM` = binary fixed point. -/
def fixedPointDomain (fractionBits : Nat) : NumDomain Number where
  ofNat := fun n => .rat (ratDomain.ofNat n)
  add := liftRat (fun a b => roundDown fractionBits (a + b))
  mul := liftRat (fun a b => roundDown fractionBits (a * b))
  div := liftRat (fun a b => roundDown fractionBits (a / b))
  pos := posRat
  fin := finRat

/-! ## IEEE 754 binary64

R160 names this instance ("The instance matching the JavaScript original"); what its operations are is the IEEE 754 standard's,
taken from general knowledge. PRESUMED (log 6). Every operation is the exact rational one, rounded once. -/

/-- The natural nearest to `n / d`, ties to even (`0 < d`). -/
def roundHalfEven (n d : Nat) : Nat :=
  let m := n / d
  let r := n % d
  if d < 2 * r ∨ (2 * r = d ∧ m % 2 = 1) then m + 1 else m

/-- `m * 2^u` as a fraction. -/
def scaleByPowerOfTwo (m : Nat) (u : Int) : Nat × Nat :=
  if 0 ≤ u then (m * 2 ^ u.toNat, 1) else (m, 2 ^ (-u).toNat)

/-- The exponent of the leading binary digit of `n / d` (`0 < n`, `0 < d`). -/
def leadingExponent (n d : Nat) : Int :=
  let e : Int := (Nat.log2 n : Int) - (Nat.log2 d : Int)
  let p := scaleByPowerOfTwo d e
  if p.1 ≤ n * p.2 then e else e - 1

/-- The exponent of the last of the 53 significand digits of `n / d`, not below that of the subnormal numbers. -/
def lastExponent (n d : Nat) : Int := max (leadingExponent n d - 52) (-1074)

/-- The zero of a sign. -/
def zeroOfSign (neg : Bool) : Number := if neg then .negZero else .rat 0

/-- The binary64 value nearest to the magnitude `n / d` with the given sign (`0 < d`), ties to even; an infinity from 2^1024 on. -/
def roundMagnitude (neg : Bool) (n d : Nat) : Number :=
  if n = 0 then zeroOfSign neg
  else
    let u := lastExponent n d
    let q := scaleByPowerOfTwo d u
    let m := roundHalfEven (n * q.2) q.1
    let v := scaleByPowerOfTwo m u
    if m = 0 then zeroOfSign neg
    else if 2 ^ 1024 * v.2 ≤ v.1 then .inf neg
    else .rat (mkRat (if neg then -(v.1 : Int) else (v.1 : Int)) v.2)

/-- The binary64 value of a rational; the rational zero is the positive zero. -/
def roundRat (q : ℚ) : Number := roundMagnitude (decide (q < 0)) q.num.natAbs q.den

/-- The sign of a value. -/
def negative : Number → Bool
  | .rat q => decide (q < 0)
  | .negZero => true
  | .inf neg => neg
  | .nan => false
  | .token _ => false

/-- The rational a finite value stands for. -/
def finiteValue : Number → Option ℚ
  | .rat q => some q
  | .negZero => some 0
  | .inf _ => none
  | .nan => none
  | .token _ => none

/-- binary64 addition: two negative zeros make a negative zero, any other zero sum is positive. -/
def addB64 (a b : Number) : Number :=
  match finiteValue a, finiteValue b with
  | some x, some y => if a = .negZero ∧ b = .negZero then .negZero else roundRat (x + y)
  | some _, none => b
  | none, some _ => a
  | none, none => if a = b then a else .nan

/-- binary64 multiplication: the sign is the exclusive or of the signs; an infinity times a zero is not a number. -/
def mulB64 (a b : Number) : Number :=
  let neg := negative a != negative b
  match finiteValue a, finiteValue b with
  | some x, some y => roundMagnitude neg (x * y).num.natAbs (x * y).den
  | some x, none => if b = .nan ∨ x = 0 then .nan else .inf neg
  | none, some y => if a = .nan ∨ y = 0 then .nan else .inf neg
  | none, none => if a = .nan ∨ b = .nan then .nan else .inf neg

/-- binary64 division. -/
def divB64 (a b : Number) : Number :=
  let neg := negative a != negative b
  match finiteValue a, finiteValue b with
  | some x, some y =>
    if y = 0 then (if x = 0 then .nan else .inf neg)
    else roundMagnitude neg (x / y).num.natAbs (x / y).den
  | some _, none => if b = .nan then .nan else zeroOfSign neg
  | none, some _ => if a = .nan then .nan else .inf neg
  | none, none => .nan

/-- `NUM` = IEEE 754 binary64 with round-to-nearest-even. -/
def binary64Domain : NumDomain Number where
  ofNat := fun n => roundMagnitude false n 1
  add := addB64
  mul := mulB64
  div := divB64
  pos := fun
    | .rat q => decide (0 < q)
    | .negZero => false
    | .inf _ => false
    | .nan => false
    | .token _ => false
  fin := fun
    | .rat _ => true
    | .negZero => true
    | .inf _ => false
    | .nan => false
    | .token _ => false

/-! ## Any other domain

Of the parameter `NUM` R160 says which operations it has and what `pos` and `fin` mean, and no more: an `other` domain has the
uninterpreted operations of Config.lean over tokens (log 5). -/

/-- A token of a domain whose last one is `last`. -/
def tokenOf (last : Option Nat) (n : Nat) : Number :=
  match last with
  | some m => .token (n % (m + 1))
  | none => .token n

/-- An operation of an `other` domain on values of `Number`. Values that are no tokens are no values of this format (log 5). -/
def liftToken (last : Option Nat) (f : Nat → Nat → Nat) : Number → Number → Number
  | .token a, .token b => tokenOf last (f a b)
  | _, _ => .nan

/-- `NUM` = the admissible domain number `id`. -/
def otherDomain (id : Nat) (last : Option Nat) : NumDomain Number where
  ofNat := fun n => tokenOf last (Config.otherOfNat id n)
  add := liftToken last (Config.otherAdd id)
  mul := liftToken last (Config.otherMul id)
  div := liftToken last (Config.otherDiv id)
  pos := fun
    | .rat _ => false
    | .negZero => false
    | .inf _ => false
    | .nan => false
    | .token n => Config.otherFinite id n && Config.otherAboveZero id n
  fin := fun
    | .rat _ => false
    | .negZero => false
    | .inf _ => false
    | .nan => false
    | .token n => Config.otherFinite id n

/-! ## The domain of one block -/

/-- The operations of the block's `NUM`. -/
def numDomain : NumFormat → NumDomain Number
  | .exact => exactDomain
  | .binary64 => binary64Domain
  | .fixedPoint fractionBits => fixedPointDomain fractionBits
  | .other id last => otherDomain id last

/-- Whether a value is an IEEE 754 binary64 value: of the rationals, those that rounding leaves as they are. -/
def isBinary64 : Number → Bool
  | .rat q => decide (roundRat q = .rat q)
  | .negZero => true
  | .inf _ => true
  | .nan => true
  | .token _ => false

/-- Whether a value is a rational that passes a test. -/
def isRat (test : ℚ → Bool) : Number → Bool
  | .rat q => test q
  | .negZero => false
  | .inf _ => false
  | .nan => false
  | .token _ => false

/-- Whether a value is a token up to the last one. -/
def isToken (last : Option Nat) : Number → Bool
  | .rat _ => false
  | .negZero => false
  | .inf _ => false
  | .nan => false
  | .token n => last.all (fun m => decide (n ≤ m))

/-- Whether a value is one of the block's `NUM` (20_memory.md R42: "`value` is of the register's type"; log 7). -/
def isNum : NumFormat → Number → Bool
  | .exact => isRat (fun _ => true)
  | .binary64 => isBinary64
  | .fixedPoint fractionBits => isRat (fun q => decide (roundDown fractionBits q = q))
  | .other _ last => isToken last

/-! ## Colours -/

/-- Whether a token is one of the block's `COLOUR` (20_memory.md R42; log 7, log 8). -/
def isColour : ColourFormat → Colour → Bool
  | .strings, .text _ => true
  | .strings, .token _ => false
  | .tokens _, .text s => decide (s = "#000")
  | .tokens others, .token n => others.all (fun m => decide (n < m))

end Sys2Proof.Machine
end

