-- ==== Sys2Proof/Machine/State.lean ====
section
/-! DEFINITION. The state of one C93CORE (10_state.md), as plain data, and its value after reset. -/

namespace Sys2Proof.Machine

/-- One Symbol: the registers `VAL`, `CHR`, `PAT` (10_state.md R11, R23). -/
structure Symbol where
  val : SymVal
  chr : Code
  pat : Pattern
  deriving DecidableEq, Repr

/-- What `ENC` produces: `CSYM`, `KSYM` and the buffer `BITS` (R17, R24). A module is `true` when it is inked (00_scope.md R7). -/
structure Encoded where
  csym : SymVal
  ksym : SymVal
  bits : List Bool
  deriving DecidableEq, Repr

/-- One run: an element of `RUNF` and of `RUNW` (R18, 30_encoding.md R67). -/
structure Run where
  fill : Bool
  width : Nat
  deriving DecidableEq, Repr

/-- One rectangle: an element of `RECTX` and of `RECTW` (R19, 30_encoding.md R68). -/
structure Rect (α : Type) where
  x : α
  w : α
  deriving DecidableEq, Repr

/-- What `GEOM` produces: the rectangles, `CANVASW` and `CANVASH` (R19). -/
structure Geometry (α : Type) where
  rects : List (Rect α)
  canvasW : α
  canvasH : α
  deriving DecidableEq, Repr

/-- How a command ends: `OK` or one of the command errors 1 to 8, with the payload that codes 2 and 3 record in `ECHAR` and `EPOS`
(R22, 30_encoding.md R69, 60_exceptions.md R200). The payload is part of the value, so that it exists exactly while `ERR` is 2 or 3
(log 13). -/
inductive CmdResult where
  | ok
  | emptyInput
  | invalidCharacter (char : Code) (position : Nat)
  | unknownSymbol (char : Code) (position : Nat)
  | invalidGeometryRequest
  | illegalCommand
  | illegalOperand
  | notReady
  | textOverflow
  deriving DecidableEq, Repr

/-- One element of a space, with its type (tables R13-T and R20-T; 20_memory.md R44). -/
inductive Value where
  | word (w : BitVec 16)
  | nat (n : Nat)
  | value (v : SymVal)
  | code (c : Code)
  | pattern (p : Pattern)
  | bit (b : Bool)
  | num (x : Number)
  | colour (c : Colour)
  | bgColour (c : Option Colour)
  deriving DecidableEq, Repr

/-- The response of a transaction (20_memory.md R40). -/
inductive Response where
  /-- of a `CMD` -/
  | cmd (r : CmdResult)
  /-- `OK` of a `WR` -/
  | wrOk
  /-- `OK(value)` of a `RD` -/
  | rdOk (v : Value)
  | badAddress
  | noValue
  deriving DecidableEq, Repr

/-- What the outside world can do to the block between two steps: the three transactions (20_memory.md R40) and reset
(70_reset_and_hazards.md R240). -/
inductive Event where
  | cmd (w : CmdWord)
  | wr (space index : Nat) (v : Value)
  | rd (space index : Nat)
  | reset
  deriving DecidableEq, Repr

/-- The state of one instance (10_state.md R10). A result that holds no value is absent, never zero or stale (R32;
93_implementation_defined.md U15), and the validity flags `LKV`, `ENCV`, `RUNV`, `GEOV` are the presence of the results they guard
(Machine/Flags.lean, log 12). The counts `LEN`, `NBITS`, `NRUNS`, `NRECT` are the lengths of their lists. The two ROMs are constants
(`symbolRows`), not state (00_scope.md, inventory item 2). -/
structure State where
  /-- the model's own: the parameters of this instance, which no step changes (log 4) -/
  cfg : Config
  /-- `TXT[0..LEN-1]` (R16) -/
  txt : List Code
  /-- `VAL`, `CHR`, `PAT`, with `LKV` (R23) -/
  lookup : Option Symbol
  /-- `CSYM`, `KSYM`, `NBITS`, `BITS`, with `ENCV` (R17, R24) -/
  enc : Option Encoded
  /-- `NRUNS`, `RUNF`, `RUNW`, with `RUNV` (R18) -/
  runs : Option (List Run)
  /-- `NRECT`, `RECTX`, `RECTW`, `CANVASW`, `CANVASH`, with `GEOV` (R19) -/
  geo : Option (Geometry Number)
  /-- `WIDTH` (R25) -/
  width : Number
  /-- `HEIGHT` (R25) -/
  height : Number
  /-- `PADDING` (R25) -/
  padding : Number
  /-- `FILLCOLOR` (R26) -/
  fillColor : Colour
  /-- `BGCOLOR`; `none` is `absent` (R26) -/
  bgColor : Option Colour
  /-- the error record `ERR`, `ECHAR`, `EPOS` (R21, R22) -/
  err : CmdResult
  /-- the model's own: what the host has issued and the block has not yet served, oldest first (log 1) -/
  input : List Event
  /-- the model's own: the response of the latest transaction (log 2) -/
  resp : Option Response
  deriving DecidableEq, Repr

/-- Why the machine could stop. The spec lets nothing hang or stop (93_implementation_defined.md, Part 1); this one reason stands for
the two computations to which it gives no result and which no reachable state makes. -/
inductive Fault where
  /-- Raised by `RUNS` when the bit buffer is valid and empty, and by `GEOM` when the runs are valid and their widths sum to 0.
  The spec rules both out (91_not_in_source.md N23; 44_geometric_scaler.md R161). Safe: the model stops and gives no value
  (DESIGN CHOICE, log 14). -/
  | noModules
  deriving DecidableEq, Repr

/-- Why the model could give no meaning. No meaning of this model refuses. -/
inductive Refusal where
  /-- Raised by an arm of exec that has no meaning yet; there is none. Safe. -/
  | notModelled (mnemonic : String)
  deriving DecidableEq, Repr

/-- The outcome of one step or one instruction. -/
abbrev Result := Host.Outcome State Fault Refusal

/-- The state after reset (table R29-T; 70_reset_and_hazards.md R240) of an instance with the parameters `c`. -/
def State.afterReset (c : Config) : State where
  cfg := c
  txt := []
  lookup := none
  enc := none
  runs := none
  geo := none
  width := (numDomain c.num).ofNat 200
  height := (numDomain c.num).ofNat 50
  padding := (numDomain c.num).ofNat 0
  fillColor := .text "#000"
  bgColor := none
  err := .ok
  input := []
  resp := none

/-- The machine right after reset, with the reference parameters of table R6-T (log 4). -/
def State.reset : State := State.afterReset Config.reference

end Sys2Proof.Machine
end

