-- ==== Sys2Proof/Machine/Rom.lean ====
section
/-! DEFINITION. The ROMs `SYMROM` and `CHRROM` (10_state.md R14, R15) and the lookup functions (40_symbol_table.md R108, R109). -/

namespace Sys2Proof.Machine

/-- `SYMROM[i]`, for `i` in 0 to 47 (R14). -/
def symrom (i : Nat) : Option Pattern := (symbolRows[i]?).map SymbolRow.pattern

/-- `CHRROM[i]`, for `i` in 0 to 47 (R15). -/
def chrrom (i : Nat) : Option Code := (symbolRows[i]?).map SymbolRow.code

/-- The ROM index of the sentinel, "an address and not a value" (R14). -/
def sentinelIndex : Nat := 47

/-- `CHRROM[0..46]`, the codes of the valued symbols. -/
def valuedCodes : List Code := (symbolRows.take 47).map SymbolRow.code

/-- `valueOf(c)`: the unique `v` in 0 to 46 with `CHRROM[v] = c`, defined only for the 47 valued codes (30_encoding.md R62). -/
def valueOf (c : Code) : Option Nat := valuedCodes.findIdx? (fun k => k == c)

/-- `isValued(c)`: one of the 47 codes of values 0 to 46 (R62). -/
def isValued (c : Code) : Bool := (valueOf c).isSome

/-- `isUser(c)`: one of the 43 codes of values 0 to 42 (R62). -/
def isUser (c : Code) : Bool := (valueOf c).any (fun v => decide (v ≤ 42))

/-- The pattern at a ROM index. Every use has `i` in 0 to 47, where `SYMROM` has an element. -/
def romPattern (i : Nat) : Pattern := (symrom i).getD 0

/-- The symbol of value `v`: `v`, `CHRROM[v]`, `SYMROM[v]`. Every use has `v` in 0 to 46. -/
def symbolAt (v : Nat) : Symbol := { val := BitVec.ofNat 6 v, chr := (chrrom v).getD 0, pat := romPattern v }

/-- `lookupValue(v)`: the symbol of value `v`, for `v` in 0 to 46 (R109). -/
def lookupValue (v : Nat) : Option Symbol := if v ≤ 46 then some (symbolAt v) else none

/-- `lookupChar(c)`: the symbol of code `c`, or none for a code that is "not one of the 47 table entries" (R108). -/
def lookupChar (c : Code) : Option Symbol := (valueOf c).bind lookupValue

/-- The values of a sequence of codes, as far as they have one. -/
def valuesOf (text : List Code) : List Nat := text.filterMap valueOf

/-- The lowest position at which a test fails, with the code that stands there ("on first failure", 42_pattern_encoder.md R130). -/
def firstFailure (test : Code → Bool) (text : List Code) : Option (Code × Nat) :=
  (text.zipIdx.find? (fun e => !test e.1))

end Sys2Proof.Machine
end

