-- ==== Sys2Proof/Machine/Operands.lean ====
section
/-! DEFINITION. The operand forms of a command word (30_encoding.md R61): `imm8` is an unsigned 8-bit value, used as it stands. -/

namespace Sys2Proof.Machine

/-- `PUSH`, `LUC`: a character code, any 8-bit value. -/
def charOperand (imm : Imm8) : Code := imm

/-- `LUV`: a symbol value; 0 to 46 are legal. -/
def valueOperand (imm : Imm8) : Option Nat := if imm.toNat ≤ 46 then some imm.toNat else none

/-- `CSUM`: a `maxWeight`; 1 to 255 are legal. -/
def weightOperand (imm : Imm8) : Option Nat := if 1 ≤ imm.toNat then some imm.toNat else none

end Sys2Proof.Machine
end

