-- ==== Sys2Proof/Machine/Flags.lean ====
section
/-! DEFINITION. The four validity flags (10_state.md R27, R28), the numeric response codes (30_encoding.md R69) and the word `STATUS`
(10_state.md R21). -/

namespace Sys2Proof.Machine

/-- `LKV`: `VAL`, `CHR`, `PAT` hold a symbol. -/
def lkv (s : State) : Bool := s.lookup.isSome

/-- `ENCV`: `CSYM`, `KSYM`, `NBITS`, `BITS` hold the encoding of the current text. -/
def encv (s : State) : Bool := s.enc.isSome

/-- `RUNV`: `NRUNS`, `RUNF`, `RUNW` hold the runs of the current bits. -/
def runv (s : State) : Bool := s.runs.isSome

/-- `GEOV`: `NRECT`, `RECTX`, `RECTW`, `CANVASW`, `CANVASH` hold the geometry of the current runs. -/
def geov (s : State) : Bool := s.geo.isSome

/-- `LKV <- 0`: the lookup registers hold no value (R23, R32). -/
def clearLookup (s : State) : State := { s with lookup := none }

/-- `GEOV <- 0`. -/
def clearGeometry (s : State) : State := { s with geo := none }

/-- `ENCV <- 0`, `RUNV <- 0`, `GEOV <- 0`: what a change of the text does to the results derived from it (R27). -/
def clearResults (s : State) : State := { s with enc := none, runs := none, geo := none }

/-- The 4-bit code of a command's response (R69). -/
def CmdResult.code : CmdResult → BitVec 4
  | .ok => 0
  | .emptyInput => 1
  | .invalidCharacter _ _ => 2
  | .unknownSymbol _ _ => 3
  | .invalidGeometryRequest => 4
  | .illegalCommand => 5
  | .illegalOperand => 6
  | .notReady => 7
  | .textOverflow => 8

/-- The 4-bit code of a transaction's response (R69). -/
def Response.code : Response → BitVec 4
  | .cmd r => r.code
  | .wrOk => 0
  | .rdOk _ => 0
  | .badAddress => 9
  | .noValue => 10

/-- `ECHAR`: the offending code, while `ERR` is 2 or 3 (R22). -/
def CmdResult.char : CmdResult → Option Code
  | .ok => none
  | .emptyInput => none
  | .invalidCharacter c _ => some c
  | .unknownSymbol c _ => some c
  | .invalidGeometryRequest => none
  | .illegalCommand => none
  | .illegalOperand => none
  | .notReady => none
  | .textOverflow => none

/-- `EPOS`: its position, while `ERR` is 2 or 3 (R22). -/
def CmdResult.position : CmdResult → Option Nat
  | .ok => none
  | .emptyInput => none
  | .invalidCharacter _ p => some p
  | .unknownSymbol _ p => some p
  | .invalidGeometryRequest => none
  | .illegalCommand => none
  | .illegalOperand => none
  | .notReady => none
  | .textOverflow => none

/-- `STATUS`: `ERR` in bits 3 to 0, `LKV`, `ENCV`, `RUNV`, `GEOV` in bits 4 to 7, zero above (R21). -/
def statusWord (s : State) : BitVec 16 :=
  0#8 ++ (BitVec.ofBool (geov s) ++ (BitVec.ofBool (runv s) ++ (BitVec.ofBool (encv s) ++
    (BitVec.ofBool (lkv s) ++ s.err.code))))

end Sys2Proof.Machine
end

