-- ==== Sys2Proof/Machine/Ops.lean ====
section
/-! DEFINITION. The shared operations: ending a command, ending it with an error (60_exceptions.md R205), the capacities of the buffers
(00_scope.md R6) and the text buffer. -/

namespace Sys2Proof.Machine

/-! ## Ending a command -/

/-- The end of every command: `ERR` takes the response code, whatever it is, and the response is returned (20_memory.md R41). -/
def finish (r : CmdResult) (s : State) : State := { s with err := r, resp := some (.cmd r) }

/-- `respond OK`: the effects stand in `s`; `ERR <- 0`, so that `ECHAR` and `EPOS` hold no value (R205). -/
def respondOk (s : State) : Result := .next (finish .ok s)

/-- The flags an error clears (table R205-T). -/
def errorFlags (e : CmdResult) (s : State) : State :=
  match e with
  | .ok => s
  | .emptyInput => clearResults s
  | .invalidCharacter _ _ => clearResults s
  | .unknownSymbol _ _ => clearLookup s
  | .invalidGeometryRequest => clearGeometry s
  | .illegalCommand => s
  | .illegalOperand => clearLookup s
  | .notReady => s
  | .textOverflow => s

/-- `raise e`: error entry (R205), the block's only exception. The command has made none of its effects; exactly the changes of table
R205-T are made and the response is returned. Control goes nowhere, and there is nothing to return from: the record lasts until the
next command overwrites it (R209). -/
def raise (e : CmdResult) (s : State) : Result := .next (finish e (errorFlags e s))

/-! ## Capacities -/

/-- A size that follows from `TEXT_MAX`; `none` is unbounded. -/
def capacity (f : Nat → Nat) (c : Config) : Option Nat := c.textMax.map f

/-- `TEXT_MAX` characters. -/
def textCapacity (c : Config) : Option Nat := capacity id c

/-- `(TEXT_MAX+4)*9+1` modules. -/
def bitCapacity (c : Config) : Option Nat := capacity (fun t => (t + 4) * 9 + 1) c

/-- `6*(TEXT_MAX+4)+1` runs. -/
def runCapacity (c : Config) : Option Nat := capacity (fun t => 6 * (t + 4) + 1) c

/-- `3*(TEXT_MAX+4)+1` rectangles. -/
def rectCapacity (c : Config) : Option Nat := capacity (fun t => 3 * (t + 4) + 1) c

/-! ## The text buffer -/

/-- Whether `LEN < TEXT_MAX` fails (42_pattern_encoder.md R131; log 16). -/
def textFull (s : State) : Bool := (textCapacity s.cfg).any (fun t => decide (t ≤ s.txt.length))

/-- `TXT[LEN] <- c`, `LEN <- LEN + 1`. -/
def appendChar (c : Code) (s : State) : State := { s with txt := s.txt ++ [c] }

/-- `LEN <- 0`. -/
def emptyText (s : State) : State := { s with txt := [] }

/-! ## The result registers -/

/-- `VAL`, `CHR`, `PAT` take one symbol and `LKV <- 1`. -/
def writeLookup (y : Symbol) (s : State) : State := { s with lookup := some y }

/-- `CSYM`, `KSYM`, `NBITS`, `BITS` are written, `ENCV <- 1`, `RUNV <- 0`, `GEOV <- 0` (R133). -/
def writeEncoded (e : Encoded) (s : State) : State := { s with enc := some e, runs := none, geo := none }

/-- `NRUNS`, `RUNF`, `RUNW` are written, `RUNV <- 1`, `GEOV <- 0` (R151). -/
def writeRuns (rs : List Run) (s : State) : State := { s with runs := some rs, geo := none }

/-- `NRECT`, `RECTX`, `RECTW`, `CANVASW`, `CANVASH` are written, `GEOV <- 1` (R163). -/
def writeGeometry (g : Geometry Number) (s : State) : State := { s with geo := some g }

end Sys2Proof.Machine
end

