-- ==== Sys2Proof/Machine/Bus.lean ====
section
/-! DEFINITION. The bus transactions `WR` and `RD` (20_memory.md R42, R43) over the nine spaces (10_state.md R13). -/

namespace Sys2Proof.Machine

/-! ## The space ids of table R13-T -/

def regSpace : Nat := 0
def symromSpace : Nat := 1
def chrromSpace : Nat := 2
def txtSpace : Nat := 3
def bitsSpace : Nat := 4
def runfSpace : Nat := 5
def runwSpace : Nat := 6
def rectxSpace : Nat := 7
def rectwSpace : Nat := 8

/-! ## Reading -/

/-- `OK(value)`, or `NoValue` where the location holds none (R43, R47). -/
def valueOrNone (v : Option Value) : Response :=
  match v with
  | some x => .rdOk x
  | none => .noValue

/-- One register of space `REG` (10_state.md, table R20-T). -/
def readReg (index : Nat) (s : State) : Response :=
  match index with
  | 0 => .rdOk (.word (statusWord s))
  | 1 => valueOrNone (s.err.char.map .code)
  | 2 => valueOrNone (s.err.position.map .nat)
  | 3 => .rdOk (.nat s.txt.length)
  | 4 => valueOrNone (s.lookup.map (fun y => .value y.val))
  | 5 => valueOrNone (s.lookup.map (fun y => .code y.chr))
  | 6 => valueOrNone (s.lookup.map (fun y => .pattern y.pat))
  | 7 => valueOrNone (s.enc.map (fun e => .value e.csym))
  | 8 => valueOrNone (s.enc.map (fun e => .value e.ksym))
  | 9 => valueOrNone (s.enc.map (fun e => .nat e.bits.length))
  | 10 => valueOrNone (s.runs.map (fun rs => .nat rs.length))
  | 11 => valueOrNone (s.geo.map (fun g => .nat g.rects.length))
  | 12 => valueOrNone (s.geo.map (fun g => .num g.canvasW))
  | 13 => valueOrNone (s.geo.map (fun g => .num g.canvasH))
  | 16 => .rdOk (.num s.width)
  | 17 => .rdOk (.num s.height)
  | 18 => .rdOk (.num s.padding)
  | 19 => .rdOk (.colour s.fillColor)
  | 20 => .rdOk (.bgColour s.bgColor)
  | _ => .badAddress

/-- One element of a ROM: `BadAddress` from index 48 on (R43). -/
def readRom (v : Option Value) : Response :=
  match v with
  | some x => .rdOk x
  | none => .badAddress

/-- One element of a buffer: `BadAddress` at or beyond its capacity, `NoValue` where it holds no element (R43; log 17). -/
def readBuffer (cap : Option Nat) (index : Nat) (v : Option Value) : Response :=
  if cap.any (fun n => decide (n ≤ index)) then .badAddress else valueOrNone v

/-- What `RD(space, index)` responds (R43). -/
def readSpace (space index : Nat) (s : State) : Response :=
  match space with
  | 0 => readReg index s
  | 1 => readRom ((symrom index).map .pattern)
  | 2 => readRom ((chrrom index).map .code)
  | 3 => readBuffer (textCapacity s.cfg) index ((s.txt[index]?).map .code)
  | 4 => readBuffer (bitCapacity s.cfg) index ((s.enc.bind (fun e => e.bits[index]?)).map .bit)
  | 5 => readBuffer (runCapacity s.cfg) index ((s.runs.bind (fun rs => rs[index]?)).map (fun r => .bit r.fill))
  | 6 => readBuffer (runCapacity s.cfg) index ((s.runs.bind (fun rs => rs[index]?)).map (fun r => .nat r.width))
  | 7 => readBuffer (rectCapacity s.cfg) index ((s.geo.bind (fun g => g.rects[index]?)).map (fun r => .num r.x))
  | 8 => readBuffer (rectCapacity s.cfg) index ((s.geo.bind (fun g => g.rects[index]?)).map (fun r => .num r.w))
  | _ => .badAddress

/-- `RD(space, index)`: responds and changes no state (R43). -/
def busRead (space index : Nat) (s : State) : State := { s with resp := some (readSpace space index s) }

/-! ## Writing -/

/-- A configuration register takes a value of its type and `GEOV <- 0`; `none` is every other write (R42, R28; log 7). -/
def writeReg (index : Nat) (v : Value) (s : State) : Option State :=
  match index, v with
  | 16, .num x => if isNum s.cfg.num x then some (clearGeometry { s with width := x }) else none
  | 17, .num x => if isNum s.cfg.num x then some (clearGeometry { s with height := x }) else none
  | 18, .num x => if isNum s.cfg.num x then some (clearGeometry { s with padding := x }) else none
  | 19, .colour c => if isColour s.cfg.colour c then some (clearGeometry { s with fillColor := c }) else none
  | 20, .bgColour c => if c.all (isColour s.cfg.colour) then some (clearGeometry { s with bgColor := c }) else none
  | _, _ => none

/-- `WR(space, index, value)`: only space `REG` can be written; any other write responds `BadAddress` and changes nothing (R42). -/
def busWrite (space index : Nat) (v : Value) (s : State) : State :=
  match (if space = regSpace then writeReg index v s else none) with
  | some t => { t with resp := some .wrOk }
  | none => { s with resp := some .badAddress }

end Sys2Proof.Machine
end

