-- ==== Sys2Proof/Machine/Checksum.lean ====
section
/-! DEFINITION. The checksum engine (41_checksum.md). -/

namespace Sys2Proof.Machine

/-- The sum of R120 over a reversed traversal that has reached `index`: each value times `(index mod maxWeight) + 1`, over the
unbounded naturals (R123). -/
def weightedSum (maxWeight : Nat) : Nat → List Nat → Nat
  | _, [] => 0
  | index, v :: rest => v * (index % maxWeight + 1) + weightedSum maxWeight (index + 1) rest

/-- `checksum(symbols, maxWeight)` (R120): the value of the result symbol, 0 to 46. -/
def checksum (values : List Nat) (maxWeight : Nat) : Nat := weightedSum maxWeight 0 values.reverse % 47

/-- The check symbol C: weight cycle 20 (R121). -/
def checkC (values : List Nat) : Nat := checksum values 20

/-- The check symbol K: weight cycle 15, over the text with C appended (R121). -/
def checkK (values : List Nat) : Nat := checksum (values ++ [checkC values]) 15

/-- The part of `CSUM` after the operand check (R124): every code of the text is resolved, in ascending position, before the sum is
taken. -/
def sumText (maxWeight : Nat) (s : State) : Result :=
  match firstFailure isValued s.txt with
  | some (c, p) => raise (.unknownSymbol c p) s
  | none => respondOk (writeLookup (symbolAt (checksum (valuesOf s.txt) maxWeight)) s)

/-- `CSUM mm` (R124). -/
def execCsum (mm : Imm8) (s : State) : Result :=
  match weightOperand mm with
  | some maxWeight => sumText maxWeight s
  | none => raise .illegalOperand s

end Sys2Proof.Machine
end

