-- ==== Sys2Proof/Machine/Lookup.lean ====
section
/-! DEFINITION. The lookup commands `LUC` and `LUV` (40_symbol_table.md R106, R107). -/

namespace Sys2Proof.Machine

/-- `LUC cc` (R106). -/
def execLuc (cc : Imm8) (s : State) : Result :=
  match lookupChar (charOperand cc) with
  | some y => respondOk (writeLookup y s)
  | none => raise (.unknownSymbol (charOperand cc) 0) s

/-- `LUV vv` (R107): an operand above 46 is `IllegalOperand`, 47 included, though `SYMROM[47]` exists. -/
def execLuv (vv : Imm8) (s : State) : Result :=
  match valueOperand vv with
  | some v => respondOk (writeLookup (symbolAt v) s)
  | none => raise .illegalOperand s

end Sys2Proof.Machine
end

