-- ==== Sys2Proof/Machine/RunLength.lean ====
section
/-! DEFINITION. The run-length encoder `RUNS` (43_run_encoder.md). -/

namespace Sys2Proof.Machine

/-- The left-to-right scan of R150 with the run it is in. -/
def scanRuns (current : Run) : List Bool → List Run
  | [] => [current]
  | b :: rest =>
    if b = current.fill then scanRuns { current with width := current.width + 1 } rest
    else current :: scanRuns { fill := b, width := 1 } rest

/-- `runs(bits)` (R150): each maximal span of equal bits is one run. R150 is stated for at least one module; `execRuns` does not
reach the other case (log 14). -/
def runsOf : List Bool → List Run
  | [] => []
  | b :: rest => scanRuns { fill := b, width := 1 } rest

/-- The bits that runs imply: `width` copies of each `fill`, in order (R152). -/
def bitsOfRuns (rs : List Run) : List Bool := rs.flatMap (fun r => List.replicate r.width r.fill)

/-- The number of modules in a sequence of runs (44_geometric_scaler.md R161). -/
def totalWidth (rs : List Run) : Nat := (rs.map Run.width).sum

/-- `RUNS` (R151): needs `ENCV`; the bits stay (R154). -/
def execRuns (s : State) : Result :=
  match s.enc with
  | none => raise .notReady s
  | some e => if e.bits = [] then .fault .noModules else respondOk (writeRuns (runsOf e.bits) s)

end Sys2Proof.Machine
end

