-- ==== Sys2Proof/Machine/Scaler.lean ====
section
/-! DEFINITION. The geometric scaler `GEOM` (44_geometric_scaler.md). -/

namespace Sys2Proof.Machine

/-- The walk of R162 over the runs, with the x-cursor before the first of them: a rectangle for each inked run, and the cursor
advances by the same product whatever the fill. -/
def walkRuns {α : Type} (d : NumDomain α) (moduleWidth : α) : α → List Run → List (Rect α)
  | _, [] => []
  | x, r :: rest =>
    let w := d.mul (d.ofNat r.width) moduleWidth
    if r.fill then { x := x, w := w } :: walkRuns d moduleWidth (d.add x w) rest
    else walkRuns d moduleWidth (d.add x w) rest

/-- `moduleWidth = width / totalModuleCount`, computed once (R161). -/
def moduleWidth {α : Type} (d : NumDomain α) (rs : List Run) (width : α) : α := d.div width (d.ofNat (totalWidth rs))

/-- `x + 2*padding` (R164). -/
def enlarge {α : Type} (d : NumDomain α) (x padding : α) : α := d.add x (d.mul (d.ofNat 2) padding)

/-- `geometry(runs, width, height, padding)` (R162), for any number domain. -/
def geometry {α : Type} (d : NumDomain α) (rs : List Run) (width height padding : α) : Geometry α where
  rects := walkRuns d (moduleWidth d rs width) padding rs
  canvasW := enlarge d width padding
  canvasH := enlarge d height padding

/-- The legality of a request (R167): `pos(WIDTH)`, `pos(HEIGHT)`, `fin(PADDING)`. -/
def legalRequest {α : Type} (d : NumDomain α) (width height padding : α) : Bool := d.pos width && d.pos height && d.fin padding

/-- The geometry of given runs under the current configuration. -/
def geometryOf (rs : List Run) (s : State) : Geometry Number := geometry (numDomain s.cfg.num) rs s.width s.height s.padding

/-- `GEOM` (R163): readiness before legality (60_exceptions.md R203). The number of modules is the sum of the run widths, which is
`NBITS` in every reachable state (R161; log 15). -/
def execGeom (s : State) : Result :=
  match s.runs with
  | none => raise .notReady s
  | some rs =>
    if legalRequest (numDomain s.cfg.num) s.width s.height s.padding then
      if totalWidth rs = 0 then .fault .noModules else respondOk (writeGeometry (geometryOf rs s) s)
    else raise .invalidGeometryRequest s

/-! ## What a renderer reads -/

/-- One filled rectangle of the output, in the four-number form of 30_encoding.md R68. -/
structure Drawn where
  x : Number
  y : Number
  w : Number
  h : Number
  colour : Colour
  deriving DecidableEq, Repr

/-- The background rectangle, when `BGCOLOR` is present (R168). -/
def background (g : Geometry Number) (s : State) : List Drawn :=
  match s.bgColor with
  | some c =>
    [{ x := (numDomain s.cfg.num).ofNat 0, y := (numDomain s.cfg.num).ofNat 0, w := g.canvasW, h := g.canvasH, colour := c }]
  | none => []

/-- The bars: `(RECTX[j], PADDING, RECTW[j], HEIGHT)` in colour `FILLCOLOR` (R168). -/
def bars (g : Geometry Number) (s : State) : List Drawn :=
  g.rects.map (fun r => { x := r.x, y := s.padding, w := r.w, h := s.height, colour := s.fillColor })

/-- The complete output in drawing order, which can be read while `GEOV` = 1 (R168). -/
def drawing (s : State) : Option (List Drawn) := s.geo.map (fun g => background g s ++ bars g s)

end Sys2Proof.Machine
end

