-- ==== Sys2Proof/Machine/SymbolRows.lean ====
section
/-! DEFINITION. The 48 symbol rows of the opcode table (format `SYM9`, 40_symbol_table.md R101 to R105). A row is one element of
`SYMROM`, and the one thing a host can do with it is to read it; its meaning is that read, which responds with the nine bits and
changes no state of the block (20_memory.md R43; 10_state.md R14). DESIGN CHOICE (log 10). -/

namespace Sys2Proof.Machine

/-- `RD SYMROM[k]`. -/
def readSymbolRow (k : Nat) (s : State) : Result := .next (busRead symromSpace k s)

def execSym0 (s : State) : Result := readSymbolRow 0 s
def execSym1 (s : State) : Result := readSymbolRow 1 s
def execSym2 (s : State) : Result := readSymbolRow 2 s
def execSym3 (s : State) : Result := readSymbolRow 3 s
def execSym4 (s : State) : Result := readSymbolRow 4 s
def execSym5 (s : State) : Result := readSymbolRow 5 s
def execSym6 (s : State) : Result := readSymbolRow 6 s
def execSym7 (s : State) : Result := readSymbolRow 7 s
def execSym8 (s : State) : Result := readSymbolRow 8 s
def execSym9 (s : State) : Result := readSymbolRow 9 s
def execSymA (s : State) : Result := readSymbolRow 10 s
def execSymB (s : State) : Result := readSymbolRow 11 s
def execSymC (s : State) : Result := readSymbolRow 12 s
def execSymD (s : State) : Result := readSymbolRow 13 s
def execSymE (s : State) : Result := readSymbolRow 14 s
def execSymF (s : State) : Result := readSymbolRow 15 s
def execSymG (s : State) : Result := readSymbolRow 16 s
def execSymH (s : State) : Result := readSymbolRow 17 s
def execSymI (s : State) : Result := readSymbolRow 18 s
def execSymJ (s : State) : Result := readSymbolRow 19 s
def execSymK (s : State) : Result := readSymbolRow 20 s
def execSymL (s : State) : Result := readSymbolRow 21 s
def execSymM (s : State) : Result := readSymbolRow 22 s
def execSymN (s : State) : Result := readSymbolRow 23 s
def execSymO (s : State) : Result := readSymbolRow 24 s
def execSymP (s : State) : Result := readSymbolRow 25 s
def execSymQ (s : State) : Result := readSymbolRow 26 s
def execSymR (s : State) : Result := readSymbolRow 27 s
def execSymS (s : State) : Result := readSymbolRow 28 s
def execSymT (s : State) : Result := readSymbolRow 29 s
def execSymU (s : State) : Result := readSymbolRow 30 s
def execSymV (s : State) : Result := readSymbolRow 31 s
def execSymW (s : State) : Result := readSymbolRow 32 s
def execSymX (s : State) : Result := readSymbolRow 33 s
def execSymY (s : State) : Result := readSymbolRow 34 s
def execSymZ (s : State) : Result := readSymbolRow 35 s
def execSymMinus (s : State) : Result := readSymbolRow 36 s
def execSymDot (s : State) : Result := readSymbolRow 37 s
def execSymSpace (s : State) : Result := readSymbolRow 38 s
def execSymDollar (s : State) : Result := readSymbolRow 39 s
def execSymSlash (s : State) : Result := readSymbolRow 40 s
def execSymPlus (s : State) : Result := readSymbolRow 41 s
def execSymPercent (s : State) : Result := readSymbolRow 42 s
def execSymCheckDollar (s : State) : Result := readSymbolRow 43 s
def execSymCheckPercent (s : State) : Result := readSymbolRow 44 s
def execSymCheckSlash (s : State) : Result := readSymbolRow 45 s
def execSymCheckPlus (s : State) : Result := readSymbolRow 46 s
def execSymSentinel (s : State) : Result := readSymbolRow 47 s

end Sys2Proof.Machine
end

