-- ==== Sys2Proof/Machine/Text.lean ====
section
/-! DEFINITION. The text buffer commands `CLR` and `PUSH`, and the pattern encoder `ENC` (42_pattern_encoder.md). -/

namespace Sys2Proof.Machine

/-- `CLR` (R132): all four flags are cleared; the configuration stays. -/
def execClr (s : State) : Result := respondOk (emptyText (clearLookup (clearResults s)))

/-- `PUSH cc` (R131): any code is stored; `LKV` and the lookup registers stay. -/
def execPush (cc : Imm8) (s : State) : Result :=
  if textFull s then raise .textOverflow s
  else respondOk (clearResults (appendChar (charOperand cc) s))

/-- The nine modules of a pattern, bit 8 first (30_encoding.md R64). -/
def modulesOf (p : Pattern) : List Bool :=
  [p.getLsbD 8, p.getLsbD 7, p.getLsbD 6, p.getLsbD 5, p.getLsbD 4, p.getLsbD 3, p.getLsbD 2, p.getLsbD 1, p.getLsbD 0]

/-- The ROM indices of the symbol slots: sentinel, text, C, K, sentinel (table R65-T). -/
def slots (values : List Nat) : List Nat :=
  sentinelIndex :: values ++ [checkC values, checkK values, sentinelIndex]

/-- The module bit-sequence: the patterns of the slots, then the terminator bit 1 (R130, R65). -/
def moduleSequence (values : List Nat) : List Bool :=
  (slots values).flatMap (fun i => modulesOf (romPattern i)) ++ [true]

/-- What `encode` gives for a valid text of these values (R130). -/
def encodeValues (values : List Nat) : Encoded where
  csym := BitVec.ofNat 6 (checkC values)
  ksym := BitVec.ofNat 6 (checkK values)
  bits := moduleSequence values

/-- `encode(text)` (R130): `EmptyInput`, else `InvalidCharacter` at the first failure, else the encoding. -/
def encodeText (text : List Code) : Except CmdResult Encoded :=
  match text with
  | [] => .error .emptyInput
  | c :: rest =>
    match firstFailure isUser (c :: rest) with
    | some (bad, p) => .error (.invalidCharacter bad p)
    | none => .ok (encodeValues (valuesOf (c :: rest)))

/-- `ENC` (R133): the text and the lookup registers stay (R136). -/
def execEnc (s : State) : Result :=
  match encodeText s.txt with
  | .ok e => respondOk (writeEncoded e s)
  | .error e => raise e s

end Sys2Proof.Machine
end

