-- ==== Sys2Proof/Machine/Dispatch.lean ====
section
/-! DEFINITION. One arm per constructor of Instr. -/

namespace Sys2Proof.Machine

def exec (i : Instr) (s : State) : Host.Outcome State Fault Refusal :=
  match i with
  | .clr => Sys2Proof.Machine.execClr s
  | .push cc => Sys2Proof.Machine.execPush cc s
  | .luc cc => Sys2Proof.Machine.execLuc cc s
  | .luv vv => Sys2Proof.Machine.execLuv vv s
  | .csum mm => Sys2Proof.Machine.execCsum mm s
  | .enc => Sys2Proof.Machine.execEnc s
  | .runs => Sys2Proof.Machine.execRuns s
  | .geom => Sys2Proof.Machine.execGeom s
  | .sym0 => Sys2Proof.Machine.execSym0 s
  | .sym1 => Sys2Proof.Machine.execSym1 s
  | .sym2 => Sys2Proof.Machine.execSym2 s
  | .sym3 => Sys2Proof.Machine.execSym3 s
  | .sym4 => Sys2Proof.Machine.execSym4 s
  | .sym5 => Sys2Proof.Machine.execSym5 s
  | .sym6 => Sys2Proof.Machine.execSym6 s
  | .sym7 => Sys2Proof.Machine.execSym7 s
  | .sym8 => Sys2Proof.Machine.execSym8 s
  | .sym9 => Sys2Proof.Machine.execSym9 s
  | .symA => Sys2Proof.Machine.execSymA s
  | .symB => Sys2Proof.Machine.execSymB s
  | .symC => Sys2Proof.Machine.execSymC s
  | .symD => Sys2Proof.Machine.execSymD s
  | .symE => Sys2Proof.Machine.execSymE s
  | .symF => Sys2Proof.Machine.execSymF s
  | .symG => Sys2Proof.Machine.execSymG s
  | .symH => Sys2Proof.Machine.execSymH s
  | .symI => Sys2Proof.Machine.execSymI s
  | .symJ => Sys2Proof.Machine.execSymJ s
  | .symK => Sys2Proof.Machine.execSymK s
  | .symL => Sys2Proof.Machine.execSymL s
  | .symM => Sys2Proof.Machine.execSymM s
  | .symN => Sys2Proof.Machine.execSymN s
  | .symO => Sys2Proof.Machine.execSymO s
  | .symP => Sys2Proof.Machine.execSymP s
  | .symQ => Sys2Proof.Machine.execSymQ s
  | .symR => Sys2Proof.Machine.execSymR s
  | .symS => Sys2Proof.Machine.execSymS s
  | .symT => Sys2Proof.Machine.execSymT s
  | .symU => Sys2Proof.Machine.execSymU s
  | .symV => Sys2Proof.Machine.execSymV s
  | .symW => Sys2Proof.Machine.execSymW s
  | .symX => Sys2Proof.Machine.execSymX s
  | .symY => Sys2Proof.Machine.execSymY s
  | .symZ => Sys2Proof.Machine.execSymZ s
  | .symMinus => Sys2Proof.Machine.execSymMinus s
  | .symDot => Sys2Proof.Machine.execSymDot s
  | .symSpace => Sys2Proof.Machine.execSymSpace s
  | .symDollar => Sys2Proof.Machine.execSymDollar s
  | .symSlash => Sys2Proof.Machine.execSymSlash s
  | .symPlus => Sys2Proof.Machine.execSymPlus s
  | .symPercent => Sys2Proof.Machine.execSymPercent s
  | .symCheckDollar => Sys2Proof.Machine.execSymCheckDollar s
  | .symCheckPercent => Sys2Proof.Machine.execSymCheckPercent s
  | .symCheckSlash => Sys2Proof.Machine.execSymCheckSlash s
  | .symCheckPlus => Sys2Proof.Machine.execSymCheckPlus s
  | .symSentinel => Sys2Proof.Machine.execSymSentinel s

end Sys2Proof.Machine
end

