-- ==== Sys2Proof/Machine/Fetch.lean ====
section
/-! DEFINITION. Taking the next transaction from the host and serving it (20_memory.md R40, R41, R48), and the host's shorthand lists of
commands (30_encoding.md R74). -/

namespace Sys2Proof.Machine

/-- A command word: `IllegalCommand` when it is illegal, before any other check (R203), else the command. -/
def serveCmd (w : CmdWord) (s : State) : Result :=
  match decodeCmd w with
  | .instr i => exec i s
  | .illegal _ => raise .illegalCommand s

/-- Reset: table R29-T; the parameters stay, and so does what the host issues after it (log 18). -/
def serveReset (s : State) : State := { State.afterReset s.cfg with input := s.input }

/-- One event, to completion. -/
def serve (e : Event) (s : State) : Result :=
  match e with
  | .cmd w => serveCmd w s
  | .wr space index v => .next (busWrite space index v s)
  | .rd space index => .next (busRead space index s)
  | .reset => .next (serveReset s)

/-- The oldest event is taken and served; with none the block is idle and nothing changes (log 3). -/
def serveNext (s : State) : Result :=
  match s.input with
  | [] => .next s
  | e :: rest => serve e { s with input := rest }

/-- The event by which a table row's bits reach the block: a command word in a `CMD` transaction; the nine bits of a symbol row by
the read of the ROM element they are (log 11). -/
def tableEvent (nbits w : Nat) : Event :=
  match (tableEncoding nbits w).map decode with
  | some (.instr i) =>
    match i.romIndex with
    | some k => .rd symromSpace k
    | none => .cmd (BitVec.ofNat 16 w)
  | some (.illegal _) => .cmd (BitVec.ofNat 16 w)
  | none => .cmd (BitVec.ofNat 16 w)

/-- An event is put before all others, so that the next step serves it. -/
def issueFirst (e : Event) (s : State) : State := { s with input := e :: s.input }

/-! ## Pseudo-instructions -/

/-- The word of an instruction that has one. -/
def commandEvents (i : Instr) : List Event :=
  match encode i with
  | .cmd16 w => [.cmd w]
  | .sym9 _ => []

/-- `TEXT "c0 ... c(n-1)"`: `CLR`, then one `PUSH` for each character (R74). -/
def textEvents (cs : List Code) : List Event := commandEvents .clr ++ cs.flatMap (fun c => commandEvents (.push c))

/-- `BARCODE "s"`: `TEXT "s"`, `ENC`, `RUNS`, `GEOM` (R74). -/
def barcodeEvents (cs : List Code) : List Event :=
  textEvents cs ++ commandEvents .enc ++ commandEvents .runs ++ commandEvents .geom

/-- `CSUMC`: `CSUM 20` (R74). -/
def csumcEvents : List Event := commandEvents (.csum 20#8)

/-- `CSUMK`: `CSUM 15` (R74). -/
def csumkEvents : List Event := commandEvents (.csum 15#8)

end Sys2Proof.Machine
end

