-- ==== Sys2Proof/Machine/Step.lean ====
section
/-! DEFINITION. One step: one host transaction, to completion (20_memory.md R48). -/

namespace Sys2Proof.Machine

/-- One step of the machine. -/
def step (s : State) : Host.Outcome State Fault Refusal := serveNext s

/-- `s` with a table row's bits placed as the very next thing the block serves. The block fetches nothing (10_state.md R12): the host
issues its words, so this stands for the host's issuing one (log 1, log 11). -/
def State.withFetchWord (s : State) (nbits w : Nat) : State := issueFirst (tableEvent nbits w) s

end Sys2Proof.Machine
end

