-- ==== Sys2Proof/Safety.lean ====
section
/-! DEFINITION. The states the spec allows: what every reachable state satisfies, in the terms the claims use. -/

namespace Sys2Proof.Machine

/-- `LEN ≤ TEXT_MAX` (10_state.md R16). -/
def TextFits (s : State) : Prop := ∀ t, s.cfg.textMax = some t → s.txt.length ≤ t

/-- While `LKV` = 1, `VAL` is a value and `CHR`, `PAT` are its code and pattern (R23). -/
def LookupConsistent (s : State) : Prop := ∀ y, s.lookup = some y → ∃ v, v ≤ 46 ∧ y = symbolAt v

/-- While `ENCV` = 1, `CSYM`, `KSYM`, `NBITS`, `BITS` are the encoding of the current text (R17, R24, R27). -/
def EncodingCurrent (s : State) : Prop := ∀ e, s.enc = some e → encodeText s.txt = .ok e

/-- While `RUNV` = 1, the runs are those of the current bits (R18, R27). -/
def RunsCurrent (s : State) : Prop := ∀ rs, s.runs = some rs → ∃ e, s.enc = some e ∧ rs = runsOf e.bits

/-- While `GEOV` = 1, the geometry is that of the current runs under the current, legal configuration (R19, R27). -/
def GeometryCurrent (s : State) : Prop :=
  ∀ g, s.geo = some g →
    ∃ rs, s.runs = some rs ∧ legalRequest (numDomain s.cfg.num) s.width s.height s.padding = true ∧ g = geometryOf rs s

/-- The configuration registers hold values of the block's `NUM` and `COLOUR` (R20, R25, R26). -/
def ConfigTyped (s : State) : Prop :=
  isNum s.cfg.num s.width = true ∧ isNum s.cfg.num s.height = true ∧ isNum s.cfg.num s.padding = true ∧
    isColour s.cfg.colour s.fillColor = true ∧ s.bgColor.all (isColour s.cfg.colour) = true

/-- The invariant of the block: what the spec says of every reachable state. -/
structure StateInv (s : State) : Prop where
  textFits : TextFits s
  lookup : LookupConsistent s
  encoding : EncodingCurrent s
  runs : RunsCurrent s
  geometry : GeometryCurrent s
  config : ConfigTyped s

end Sys2Proof.Machine
end

