-- ==== Sys2Proof/Certificates/Slice0/Obligations.lean ====
section
/-! DEFINITION. The statements about the model, one Prop each. Every step-level statement speaks of the event queue `input` and of the
field `resp`, which are the model's own form of the host's transactions and their responses (log 1, log 2). -/

open Sys2Proof Sys2Proof.Machine

/-! ## Vocabulary of the statements -/

namespace Sys2Proof.Claims

/-- `c` is the code of the valued symbol `v`: `v` is in 0 to 46 and `CHRROM[v] = c` (30_encoding.md R62). -/
def HasValue (c : Code) (v : Nat) : Prop := v ≤ 46 ∧ chrrom v = some c

/-- `c` is the code of one of the 43 user-encodable symbols (30_encoding.md R62). -/
def IsUserCode (c : Code) : Prop := ∃ v, v ≤ 42 ∧ chrrom v = some c

/-- The code `c` stands at `p`, fails `good`, and every code before it passes. -/
def FirstBad (good : Code → Prop) (text : List Code) (c : Code) (p : Nat) : Prop :=
  text[p]? = some c ∧ ¬ good c ∧ ∀ q d, q < p → text[q]? = some d → good d

/-- The sum of 41_checksum.md R120 in its closed form: the value at position `p` from the left has weight
`((n-1-p) mod maxWeight) + 1`. -/
def weightedSumFromLeft (values : List Nat) (maxWeight : Nat) : Nat :=
  ∑ p ∈ Finset.range values.length, values.getD p 0 * ((values.length - 1 - p) % maxWeight + 1)

/-- The reversed traversal of 41_checksum.md R120 with the accumulator reduced modulo 47 after every step (R123). -/
def reducedSum (values : List Nat) (maxWeight : Nat) : Nat :=
  values.reverse.zipIdx.foldl (fun acc p => (acc + p.1 * (p.2 % maxWeight + 1)) % 47) 0

/-- The slots of table R65-T for given values and check values. -/
def slotIndices (values : List Nat) (c k : Nat) : List Nat := 47 :: (values ++ [c, k, 47])

/-- A sequence of runs with no two neighbours of one fill, each at least one module wide. -/
def MaximalRuns (rs : List Run) : Prop := (∀ r ∈ rs, 1 ≤ r.width) ∧ rs.IsChain (fun a b => a.fill ≠ b.fill)

/-- The index of the first module of run `i`. -/
def startOf (rs : List Run) (i : Nat) : Nat := totalWidth (rs.take i)

/-- How many inked runs stand before run `i`: the index of its rectangle. -/
def inkedBefore (rs : List Run) (i : Nat) : Nat := (rs.take i).countP Run.fill

/-- `NoValue`, or `BadAddress` at or beyond a capacity: no data is returned. -/
def Unreadable (r : Response) : Prop := r = .noValue ∨ r = .badAddress

/-- The values of 10_state.md table R29-T: no text, no readable result, `ERR` = 0, the four flags 0, and the defaults in the
configuration registers. -/
def IsResetState (s : State) : Prop :=
  readSpace 0 3 s = .rdOk (.nat 0) ∧ statusWord s = 0#16 ∧
    (∀ index, index = 1 ∨ index = 2 ∨ (4 ≤ index ∧ index ≤ 13) → readSpace 0 index s = .noValue) ∧
    (∀ space index, 3 ≤ space → space ≤ 8 → Unreadable (readSpace space index s)) ∧
    s.width = (numDomain s.cfg.num).ofNat 200 ∧ s.height = (numDomain s.cfg.num).ofNat 50 ∧
    s.padding = (numDomain s.cfg.num).ofNat 0 ∧ s.fillColor = .text "#000" ∧ s.bgColor = none

/-- The four flags `LKV`, `ENCV`, `RUNV`, `GEOV`. -/
def flags (s : State) : Bool × Bool × Bool × Bool := (lkv s, encv s, runv s, geov s)

/-- The address of a configuration register with a value of that register's type (20_memory.md R42). -/
def IsConfigWrite (cfg : Config) (space index : Nat) (v : Value) : Prop :=
  space = 0 ∧
    (((index = 16 ∨ index = 17 ∨ index = 18) ∧ ∃ x, v = .num x ∧ isNum cfg.num x = true) ∨
      (index = 19 ∧ ∃ c, v = .colour c ∧ isColour cfg.colour c = true) ∨
      (index = 20 ∧ ∃ c, v = .bgColour c ∧ c.all (isColour cfg.colour) = true))

/-- The five configuration registers. -/
def configuration (s : State) : Number × Number × Number × Colour × Option Colour :=
  (s.width, s.height, s.padding, s.fillColor, s.bgColor)

/-- Nothing of the encoding, the runs or the geometry can be read. -/
def ResultsUnreadable (s : State) : Prop :=
  (∀ index, 7 ≤ index → index ≤ 13 → readSpace 0 index s = .noValue) ∧
    ∀ space index, 4 ≤ space → space ≤ 8 → Unreadable (readSpace space index s)

end Sys2Proof.Claims

open Sys2Proof.Claims

/-! ## Encoding -/

/-- 30_encoding.md R60, R66 and the tables of 40_symbol_table.md: no bit of an encoding is dropped, for every instruction and every
operand. -/
def Obligations.DecodeEncodeRoundTrip : Prop := ∀ i : Instr, decode (encode i) = .instr i

/-- 30_encoding.md R66, 40_symbol_table.md R110 (c): each legal word and each pattern has one meaning. -/
def Obligations.DecodedBitsEncodeBack : Prop :=
  (∀ w i, decodeCmd w = .instr i → encode i = .cmd16 w) ∧ (∀ p i, decodeSym p = .instr i → encode i = .sym9 p)

/-- 30_encoding.md R70 (a) to (c): exactly these words respond `IllegalCommand`, with no other change than `ERR <- 5`. -/
def Obligations.IllegalWordsChangeOnlyErr : Prop :=
  ∀ (s : State) (rest : List Event) (w : CmdWord),
    (8 ≤ (w.extractLsb' 12 4).toNat ∨ w.extractLsb' 8 4 ≠ 0#4 ∨
        ((w.extractLsb' 12 4).toNat ∈ [0, 5, 6, 7] ∧ w.extractLsb' 0 8 ≠ 0#8) →
      step { s with input := .cmd w :: rest } =
        .next { s with input := rest, err := .illegalCommand, resp := some (.cmd .illegalCommand) }) ∧
    (¬ (8 ≤ (w.extractLsb' 12 4).toNat ∨ w.extractLsb' 8 4 ≠ 0#4 ∨
        ((w.extractLsb' 12 4).toNat ∈ [0, 5, 6, 7] ∧ w.extractLsb' 0 8 ≠ 0#8)) →
      ∃ i, decodeCmd w = .instr i)

/-- Words written out from table R66-T and nine bits written out from 40_symbol_table.md, one or more of each family. -/
def Obligations.SpecWordsDecode : Prop :=
  decodeCmd 0x0000#16 = .instr .clr ∧ decodeCmd 0x1041#16 = .instr (.push 0x41#8) ∧
    decodeCmd 0x20A4#16 = .instr (.luc 0xA4#8) ∧ decodeCmd 0x301E#16 = .instr (.luv 30#8) ∧
    decodeCmd 0x4014#16 = .instr (.csum 20#8) ∧ decodeCmd 0x5000#16 = .instr .enc ∧
    decodeCmd 0x6000#16 = .instr .runs ∧ decodeCmd 0x7000#16 = .instr .geom ∧
    decodeSym 0b100010100#9 = .instr .sym0 ∧ decodeSym 0b110101000#9 = .instr .symA ∧
    decodeSym 0b110101110#9 = .instr .symPercent ∧ decodeSym 0b100110010#9 = .instr .symCheckPlus ∧
    decodeSym 0b101011110#9 = .instr .symSentinel

/-! ## The step -/

/-- 20_memory.md R41, R48: a step takes the oldest event; where that is a `CMD` whose word decodes to `i`, the step is exec of `i`
with the event taken off the queue. The read of a ROM element is exec of that element's row, and a table word placed by
`withFetchWord` is what the next step runs; these two are the model's choice (log 10, log 11). -/
def Obligations.StepRunsDecodedInstruction : Prop :=
  (∀ (s : State) rest w i, decodeCmd w = .instr i →
      step { s with input := .cmd w :: rest } = exec i { s with input := rest }) ∧
    (∀ (s : State) rest i k, i.romIndex = some k →
      step { s with input := .rd 1 k :: rest } = exec i { s with input := rest }) ∧
    (∀ (s : State) nbits w i, decodeTableWord nbits w = some i → step (s.withFetchWord nbits w) = exec i s)

/-- 20_memory.md R40, R48: the bus transactions and reset are served one at a time in the order of issue. That an empty queue leaves
everything as it is (log 3), and that reset keeps the parameters and the queue (log 18), is the model's choice. -/
def Obligations.StepServesTheOldestEvent : Prop :=
  (∀ (s : State) rest space index v,
      step { s with input := .wr space index v :: rest } = .next (busWrite space index v { s with input := rest })) ∧
    (∀ (s : State) rest space index,
      step { s with input := .rd space index :: rest } =
        .next { s with input := rest, resp := some (readSpace space index { s with input := rest }) }) ∧
    (∀ (s : State) rest,
      step { s with input := .reset :: rest } = .next { State.afterReset s.cfg with input := rest }) ∧
    (∀ s : State, s.input = [] → step s = .next s)

/-- 70_reset_and_hazards.md R240: a reset from any state, whatever the parameters, and `State.reset` itself are the state of table
R29-T, where `ofNat(200)`, `ofNat(50)` and `ofNat(0)` are these numbers in each of the named number formats; `CLR` clears the text
and the results and leaves the configuration. -/
def Obligations.ResetGivesTheResetState : Prop :=
  IsResetState State.reset ∧
    (∀ s : State, ∃ t, serve .reset s = .next t ∧ IsResetState t) ∧
    (∀ c : Config, (∀ id last, c.num ≠ .other id last) → (State.afterReset c).width = .rat 200 ∧
      (State.afterReset c).height = .rat 50 ∧ (State.afterReset c).padding = .rat 0) ∧
    (∀ s : State, ∃ t, exec .clr s = .next t ∧ t.txt = [] ∧ flags t = (false, false, false, false) ∧ t.width = s.width ∧
      t.height = s.height ∧ t.padding = s.padding ∧ t.fillColor = s.fillColor ∧ t.bgColor = s.bgColor)

/-- The invariant holds after reset, whatever the parameters (10_state.md R27, R29). -/
def Obligations.ResetMeetsTheInvariant : Prop := ∀ c : Config, StateInv (State.afterReset c)

/-- 10_state.md R16 to R19, R23, R24, R27: every step keeps the invariant, so while a flag is 1 the results it guards are those of
the current text, bits, runs and configuration. -/
def Obligations.StepKeepsTheInvariant : Prop := ∀ s t, StateInv s → step s = .next t → StateInv t

/-- 10_state.md R27: `GEOV=1 ⇒ RUNV=1 ⇒ ENCV=1 ⇒ LEN ≥ 1`. -/
def Obligations.FlagsFormAChain : Prop :=
  ∀ s : State, StateInv s → (geov s = true → runv s = true) ∧ (runv s = true → encv s = true) ∧ (encv s = true → 1 ≤ s.txt.length)

/-- 93_implementation_defined.md Part 1, 70_reset_and_hazards.md R251: nothing hangs and nothing stops; every transaction ends in a
next state. -/
def Obligations.EveryStepCompletes : Prop := ∀ s : State, StateInv s → ∃ t, step s = .next t

/-- 30_encoding.md R63: no register of type value holds 47 or more. -/
def Obligations.ValueRegistersStayBelow47 : Prop :=
  ∀ s : State, StateInv s →
    (∀ y, s.lookup = some y → y.val.toNat ≤ 46) ∧ (∀ e, s.enc = some e → e.csym.toNat ≤ 46 ∧ e.ksym.toNat ≤ 46)

/-- 00_scope.md R6, derived sizes: the results fit the buffers, so no valid element is out of reach. -/
def Obligations.ResultsFitTheBuffers : Prop :=
  ∀ s n, StateInv s → s.cfg.textMax = some n →
    s.txt.length ≤ n ∧ (∀ e, s.enc = some e → e.bits.length ≤ (n + 4) * 9 + 1) ∧
      (∀ rs, s.runs = some rs → rs.length ≤ 6 * (n + 4) + 1) ∧
      (∀ g, s.geo = some g → g.rects.length ≤ 3 * (n + 4) + 1)

/-! ## Status, flags, errors -/

/-- 10_state.md R21. -/
def Obligations.StatusWordIsAssembled : Prop :=
  (∀ s : State, (statusWord s).extractLsb' 0 4 = s.err.code ∧ (statusWord s).getLsbD 4 = lkv s ∧
      (statusWord s).getLsbD 5 = encv s ∧ (statusWord s).getLsbD 6 = runv s ∧ (statusWord s).getLsbD 7 = geov s ∧
      (statusWord s).extractLsb' 8 8 = 0#8) ∧
    (∀ s : State, busRead 0 0 s = { s with resp := some (.rdOk (.word (statusWord s))) }) ∧
    (∀ s v, busWrite 0 0 v s = { s with resp := some .badAddress }) ∧
    (∀ s w t, serve (.cmd w) s = .next t → ∃ r, t.resp = some r ∧ (statusWord t).extractLsb' 0 4 = r.code) ∧
    (∀ c, (statusWord (State.afterReset c)).extractLsb' 0 4 = 0#4) ∧
    (∀ s space index v, (busWrite space index v s).err = s.err ∧ (busRead space index s).err = s.err)

/-- 10_state.md R28, table R28-T, row by row, and the bus transactions. -/
def Obligations.FlagWritesByOutcome : Prop :=
  (∀ (s t : State), exec .clr s = .next t → t.err = .ok ∧ flags t = (false, false, false, false)) ∧
    (∀ cc s t, exec (.push cc) s = .next t →
      (t.err = .ok ∧ flags t = (lkv s, false, false, false)) ∨ (t.err = .textOverflow ∧ flags t = flags s)) ∧
    (∀ i x s t, i = Instr.luc x ∨ i = Instr.luv x ∨ i = Instr.csum x → exec i s = .next t →
      (t.err = .ok → flags t = (true, encv s, runv s, geov s)) ∧
        (t.err ≠ .ok → flags t = (false, encv s, runv s, geov s))) ∧
    (∀ (s t : State), exec .enc s = .next t →
      (t.err = .ok ∧ flags t = (lkv s, true, false, false)) ∨
        ((t.err = .emptyInput ∨ ∃ c p, t.err = .invalidCharacter c p) ∧ flags t = (lkv s, false, false, false))) ∧
    (∀ (s t : State), exec .runs s = .next t →
      (t.err = .ok ∧ flags t = (lkv s, encv s, true, false)) ∨ (t.err = .notReady ∧ flags t = flags s)) ∧
    (∀ (s t : State), exec .geom s = .next t →
      (t.err = .ok ∧ flags t = (lkv s, encv s, runv s, true)) ∨ (t.err = .notReady ∧ flags t = flags s) ∨
        (t.err = .invalidGeometryRequest ∧ flags t = (lkv s, encv s, runv s, false))) ∧
    (∀ w why s t, decodeCmd w = .illegal why → serve (.cmd w) s = .next t →
      t.err = .illegalCommand ∧ flags t = flags s) ∧
    (∀ space index v s, (busWrite space index v s).resp = some .wrOk →
      flags (busWrite space index v s) = (lkv s, encv s, runv s, false)) ∧
    (∀ space index v s, (busWrite space index v s).resp = some .badAddress →
      busWrite space index v s = { s with resp := some .badAddress }) ∧
    (∀ space index s, ∃ r, busRead space index s = { s with resp := some r })

/-- 60_exceptions.md R205, table R205-T: which command raises each error, and exactly what it changes. -/
def Obligations.ErrorEntryChangesOnlyItsRow : Prop :=
  ∀ s w t, serve (.cmd w) s = .next t →
    (t.err = .emptyInput → decodeCmd w = .instr .enc ∧
      t = { s with enc := none, runs := none, geo := none, err := .emptyInput, resp := some (.cmd .emptyInput) }) ∧
    (∀ c p, t.err = .invalidCharacter c p → decodeCmd w = .instr .enc ∧ s.txt[p]? = some c ∧
      t = { s with enc := none, runs := none, geo := none, err := .invalidCharacter c p,
                   resp := some (.cmd (.invalidCharacter c p)) }) ∧
    (∀ c p, t.err = .unknownSymbol c p →
      ((decodeCmd w = .instr (.luc c) ∧ p = 0) ∨ (∃ m, decodeCmd w = .instr (.csum m) ∧ s.txt[p]? = some c)) ∧
      t = { s with lookup := none, err := .unknownSymbol c p, resp := some (.cmd (.unknownSymbol c p)) }) ∧
    (t.err = .invalidGeometryRequest → decodeCmd w = .instr .geom ∧
      t = { s with geo := none, err := .invalidGeometryRequest, resp := some (.cmd .invalidGeometryRequest) }) ∧
    (t.err = .illegalCommand → (∃ why, decodeCmd w = .illegal why) ∧
      t = { s with err := .illegalCommand, resp := some (.cmd .illegalCommand) }) ∧
    (t.err = .illegalOperand →
      ((∃ v, decodeCmd w = .instr (.luv v)) ∨ ∃ m, decodeCmd w = .instr (.csum m)) ∧
      t = { s with lookup := none, err := .illegalOperand, resp := some (.cmd .illegalOperand) }) ∧
    (t.err = .notReady → (decodeCmd w = .instr .runs ∨ decodeCmd w = .instr .geom) ∧
      t = { s with err := .notReady, resp := some (.cmd .notReady) }) ∧
    (t.err = .textOverflow → (∃ c, decodeCmd w = .instr (.push c)) ∧
      t = { s with err := .textOverflow, resp := some (.cmd .textOverflow) }) ∧
    (t.err.code = 2#4 ∨ t.err.code = 3#4 ↔ readSpace 0 1 t ≠ .noValue) ∧
    (t.err.code = 2#4 ∨ t.err.code = 3#4 ↔ readSpace 0 2 t ≠ .noValue)

/-- 70_reset_and_hazards.md R248: any `CMD`, one that fails at decode included, replaces the whole record by its own outcome; `RD` and
`WR` leave it. -/
def Obligations.ErrorRecordLastsOneCommand : Prop :=
  (∀ s w t, serve (.cmd w) s = .next t →
      ∃ r, t.resp = some (.cmd r) ∧ t.err = r ∧ t.err.char = r.char ∧ t.err.position = r.position) ∧
    (∀ s space index v t, serve (.wr space index v) s = .next t ∨ serve (.rd space index) s = .next t →
      t.err = s.err ∧ readSpace 0 1 t = readSpace 0 1 s ∧ readSpace 0 2 t = readSpace 0 2 s)

/-- 60_exceptions.md R209: "reissuing a failed command on unchanged state fails again in the same way". -/
def Obligations.FailedCommandFailsAgain : Prop :=
  ∀ s w t, serve (.cmd w) s = .next t → t.err ≠ .ok → serve (.cmd w) t = .next t

/-! ## Results of the commands -/

/-- 42_pattern_encoder.md R132: `CLR` completes in every state; the configuration stays. -/
def Obligations.ClrResult : Prop :=
  decodeCmd 0x0000#16 = .instr .clr ∧
    ∀ s : State, exec .clr s =
      .next { s with txt := [], lookup := none, enc := none, runs := none, geo := none, err := .ok,
                     resp := some (.cmd .ok) }

/-- 42_pattern_encoder.md R131: `PUSH` stores any code while there is room, and nothing when the text is full. -/
def Obligations.PushResult : Prop :=
  ∀ (s : State) (cc : Imm8),
    decodeCmd (0x10#8 ++ cc) = .instr (.push cc) ∧
    ((∀ n, s.cfg.textMax = some n → s.txt.length < n) →
      exec (.push cc) s =
        .next { s with txt := s.txt ++ [cc], enc := none, runs := none, geo := none, err := .ok,
                       resp := some (.cmd .ok) }) ∧
    (s.cfg.textMax = some s.txt.length →
      exec (.push cc) s = .next { s with err := .textOverflow, resp := some (.cmd .textOverflow) })

/-- 40_symbol_table.md R106, R108: `LUC` finds each of the 47 valued codes and no other. -/
def Obligations.LucResult : Prop :=
  ∀ (s : State) (cc : Imm8),
    decodeCmd (0x20#8 ++ cc) = .instr (.luc cc) ∧
    (∀ v p, HasValue cc v → symrom v = some p →
      exec (.luc cc) s =
        .next { s with lookup := some { val := BitVec.ofNat 6 v, chr := cc, pat := p }, err := .ok,
                       resp := some (.cmd .ok) }) ∧
    ((∀ v, ¬ HasValue cc v) →
      exec (.luc cc) s =
        .next { s with lookup := none, err := .unknownSymbol cc 0, resp := some (.cmd (.unknownSymbol cc 0)) })

/-- 40_symbol_table.md R107, R109: `LUV` gives the symbol of every value 0 to 46 and refuses 47 to 255. -/
def Obligations.LuvResult : Prop :=
  ∀ (s : State) (vv : Imm8),
    decodeCmd (0x30#8 ++ vv) = .instr (.luv vv) ∧
    (∀ c p, vv.toNat ≤ 46 → chrrom vv.toNat = some c → symrom vv.toNat = some p →
      exec (.luv vv) s =
        .next { s with lookup := some { val := BitVec.ofNat 6 vv.toNat, chr := c, pat := p }, err := .ok,
                       resp := some (.cmd .ok) }) ∧
    (47 ≤ vv.toNat →
      exec (.luv vv) s =
        .next { s with lookup := none, err := .illegalOperand, resp := some (.cmd .illegalOperand) })

/-- 41_checksum.md R124: the operand check, then the lowest position that has no value, then the checksum symbol. -/
def Obligations.CsumResult : Prop :=
  ∀ (s : State) (mm : Imm8),
    decodeCmd (0x40#8 ++ mm) = .instr (.csum mm) ∧
    (mm = 0#8 →
      exec (.csum mm) s =
        .next { s with lookup := none, err := .illegalOperand, resp := some (.cmd .illegalOperand) }) ∧
    (∀ c p, mm ≠ 0#8 → FirstBad (fun d => ∃ v, HasValue d v) s.txt c p →
      exec (.csum mm) s =
        .next { s with lookup := none, err := .unknownSymbol c p, resp := some (.cmd (.unknownSymbol c p)) }) ∧
    (∀ values, mm ≠ 0#8 → List.Forall₂ HasValue s.txt values →
      ∃ v c p, v = weightedSumFromLeft values mm.toNat % 47 ∧ chrrom v = some c ∧ symrom v = some p ∧
        exec (.csum mm) s =
          .next { s with lookup := some { val := BitVec.ofNat 6 v, chr := c, pat := p }, err := .ok,
                         resp := some (.cmd .ok) })

/-- 42_pattern_encoder.md R133: the error checks in order, then the check symbols and the sequence, which is the nine bits of each slot
of table R65-T, bit 8 first, and the terminator. -/
def Obligations.EncResult : Prop :=
  ∀ s : State,
    decodeCmd 0x5000#16 = .instr .enc ∧
    (s.txt = [] →
      exec .enc s =
        .next { s with enc := none, runs := none, geo := none, err := .emptyInput, resp := some (.cmd .emptyInput) }) ∧
    (∀ c p, FirstBad IsUserCode s.txt c p →
      exec .enc s =
        .next { s with enc := none, runs := none, geo := none, err := .invalidCharacter c p,
                       resp := some (.cmd (.invalidCharacter c p)) }) ∧
    (∀ values, s.txt ≠ [] → List.Forall₂ HasValue s.txt values → (∀ v ∈ values, v ≤ 42) →
      ∃ e c k, c = weightedSumFromLeft values 20 % 47 ∧ k = weightedSumFromLeft (values ++ [c]) 15 % 47 ∧
        e.csym = BitVec.ofNat 6 c ∧ e.ksym = BitVec.ofNat 6 k ∧ e.bits.length = (s.txt.length + 4) * 9 + 1 ∧
        e.bits = (slotIndices values c k).flatMap (fun i => modulesOf (romPattern i)) ++ [true] ∧
        exec .enc s =
          .next { s with enc := some e, runs := none, geo := none, err := .ok, resp := some (.cmd .ok) })

/-- 43_run_encoder.md R151: `RUNS` needs an encoding and derives its runs, the maximal spans of equal bits. -/
def Obligations.RunsResult : Prop :=
  ∀ s : State,
    decodeCmd 0x6000#16 = .instr .runs ∧
    (s.enc = none → exec .runs s = .next { s with err := .notReady, resp := some (.cmd .notReady) }) ∧
    (∀ e, s.enc = some e → e.bits ≠ [] →
      ∃ rs, bitsOfRuns rs = e.bits ∧ MaximalRuns rs ∧
        exec .runs s = .next { s with runs := some rs, geo := none, err := .ok, resp := some (.cmd .ok) })

/-- 44_geometric_scaler.md R161 to R163, for every number format: without runs `NotReady`; else, for a legal request, the module
width is divided once, the cursor of run `i+1` is that of run `i` plus the product that is also the rectangle's width, and the
rectangle of an inked run stands at its cursor. The number of modules is the sum of the run widths (log 15). -/
def Obligations.GeomResult : Prop :=
  ∀ s : State,
    decodeCmd 0x7000#16 = .instr .geom ∧
    (s.runs = none → exec .geom s = .next { s with err := .notReady, resp := some (.cmd .notReady) }) ∧
    (∀ rs, s.runs = some rs → totalWidth rs ≠ 0 →
      legalRequest (numDomain s.cfg.num) s.width s.height s.padding = true →
      ∃ g, exec .geom s = .next { s with geo := some g, err := .ok, resp := some (.cmd .ok) } ∧
        g.canvasW = (numDomain s.cfg.num).add s.width ((numDomain s.cfg.num).mul ((numDomain s.cfg.num).ofNat 2) s.padding) ∧
        g.canvasH = (numDomain s.cfg.num).add s.height ((numDomain s.cfg.num).mul ((numDomain s.cfg.num).ofNat 2) s.padding) ∧
        g.rects.length = rs.countP Run.fill ∧
        ∃ (mw : Number) (cursor : Nat → Number),
          mw = (numDomain s.cfg.num).div s.width ((numDomain s.cfg.num).ofNat (totalWidth rs)) ∧ cursor 0 = s.padding ∧
          ∀ i r, rs[i]? = some r →
            cursor (i + 1) =
              (numDomain s.cfg.num).add (cursor i) ((numDomain s.cfg.num).mul ((numDomain s.cfg.num).ofNat r.width) mw) ∧
            (r.fill = true →
              g.rects[inkedBefore rs i]? =
                some { x := cursor i, w := (numDomain s.cfg.num).mul ((numDomain s.cfg.num).ofNat r.width) mw }))

/-- The model's choice (log 14): `RUNS` on a valid buffer without a module, and a legal `GEOM` on runs without a module, stop by name.
No state that meets the invariant is one of these (10_state.md R17, 44_geometric_scaler.md R161). -/
def Obligations.NoModulesStops : Prop :=
  (∀ (s : State) e, s.enc = some e → e.bits = [] → exec .runs s = .fault .noModules ∧ ¬ StateInv s) ∧
    (∀ (s : State) rs, s.runs = some rs → totalWidth rs = 0 →
      legalRequest (numDomain s.cfg.num) s.width s.height s.padding = true →
      exec .geom s = .fault .noModules ∧ ¬ StateInv s)

/-- 40_symbol_table.md R101 to R105, 20_memory.md R43: each of the 48 symbol rows (sym0 to sym9, symA to symZ, symMinus, symDot,
symSpace, symDollar, symSlash, symPlus, symPercent, symCheckDollar, symCheckPercent, symCheckSlash, symCheckPlus, symSentinel)
completes in every state: it responds with the nine bits of its own encoding, which are `SYMROM` at its index, and changes nothing
else. That a row is run as the read of its ROM element is the model's choice (log 10). -/
def Obligations.SymbolRowResult : Prop :=
  ∀ (i : Instr) (k : Nat), i.romIndex = some k →
    k ≤ 47 ∧ ∃ p, encode i = .sym9 p ∧ symrom k = some p ∧
      ∀ s : State, exec i s = .next { s with resp := some (.rdOk (.pattern p)) }

/-! ## The functions -/

/-- 30_encoding.md R62, over all 256 codes. -/
def Obligations.CharacterCodes : Prop :=
  ∀ c : Code,
    (0x30 ≤ c.toNat → c.toNat ≤ 0x39 → valueOf c = some (c.toNat - 0x30)) ∧
    (0x41 ≤ c.toNat → c.toNat ≤ 0x5A → valueOf c = some (c.toNat - 0x41 + 10)) ∧
    (c = 0x2D#8 → valueOf c = some 36) ∧ (c = 0x2E#8 → valueOf c = some 37) ∧ (c = 0x20#8 → valueOf c = some 38) ∧
    (c = 0x24#8 → valueOf c = some 39) ∧ (c = 0x2F#8 → valueOf c = some 40) ∧ (c = 0x2B#8 → valueOf c = some 41) ∧
    (c = 0x25#8 → valueOf c = some 42) ∧ (c = 0x24#8 ||| 0x80#8 → valueOf c = some 43) ∧
    (c = 0x25#8 ||| 0x80#8 → valueOf c = some 44) ∧ (c = 0x2F#8 ||| 0x80#8 → valueOf c = some 45) ∧
    (c = 0x2B#8 ||| 0x80#8 → valueOf c = some 46) ∧ (c = 0xFF#8 → valueOf c = none ∧ chrrom 47 = some c) ∧
    (c.toNat ≤ 0x1F ∨ (0x21 ≤ c.toNat ∧ c.toNat ≤ 0x23) ∨ (0x26 ≤ c.toNat ∧ c.toNat ≤ 0x2A) ∨ c.toNat = 0x2C ∨
        (0x3A ≤ c.toNat ∧ c.toNat ≤ 0x40) ∨ (0x5B ≤ c.toNat ∧ c.toNat ≤ 0xA3) ∨
        (0xA6 ≤ c.toNat ∧ c.toNat ≤ 0xAA) ∨ (0xAC ≤ c.toNat ∧ c.toNat ≤ 0xAE) ∨ (0xB0 ≤ c.toNat ∧ c.toNat ≤ 0xFE) →
      ∀ k, chrrom k ≠ some c)

/-- 40_symbol_table.md R100, R109: the codes and the values are in bijection. -/
def Obligations.LookupsAreInverse : Prop :=
  (∀ c v, valueOf c = some v ↔ HasValue c v) ∧
    (∀ v, v ≤ 46 → ∃ y, lookupValue v = some y ∧ lookupChar y.chr = some y ∧ y.val.toNat = v) ∧
    (∀ v, 47 ≤ v → lookupValue v = none) ∧ lookupChar 0xFF#8 = none

/-- 40_symbol_table.md R110: the shape of the 48 patterns, which are the spec's from general knowledge (log 9). -/
def Obligations.PatternShape : Prop :=
  (∀ k p, symrom k = some p →
      p.getLsbD 8 = true ∧ p.getLsbD 0 = false ∧ (runsOf (modulesOf p)).length = 6 ∧
        totalWidth (runsOf (modulesOf p)) = 9 ∧ (∀ r ∈ runsOf (modulesOf p), 1 ≤ r.width ∧ r.width ≤ 4) ∧
        (runsOf (modulesOf p)).countP Run.fill = 3) ∧
    (∀ j k p, symrom j = some p → symrom k = some p → j = k) ∧
    (∀ j k p q, symrom j = some p → symrom k = some q →
      runsOf (modulesOf p ++ modulesOf q) = runsOf (modulesOf p) ++ runsOf (modulesOf q))

/-- 41_checksum.md R120: the reversed traversal and the closed form give one number, and the result is the symbol of its remainder. -/
def Obligations.ChecksumIsTheWeightedSum : Prop :=
  ∀ values maxWeight, 1 ≤ maxWeight →
    weightedSum maxWeight 0 values.reverse = weightedSumFromLeft values maxWeight ∧
      ∃ y, lookupValue (checksum values maxWeight) = some y ∧
        y.val.toNat = weightedSumFromLeft values maxWeight % 47

/-- 41_checksum.md R122, R123: the result is always the value of a symbol, the empty sequence gives 0, and reducing the running sum
modulo 47 after every step does not show. -/
def Obligations.ChecksumIsAlwaysAValue : Prop :=
  (∀ values maxWeight, ∃ y, lookupValue (checksum values maxWeight) = some y) ∧
    (∀ maxWeight, checksum [] maxWeight = 0) ∧
    (∀ values maxWeight, 1 ≤ maxWeight → reducedSum values maxWeight = checksum values maxWeight)

/-- 42_pattern_encoder.md R134. -/
def Obligations.EncodingLength : Prop :=
  (∀ text e, encodeText text = .ok e → e.bits.length = (text.length + 4) * 9 + 1 ∧ 46 ≤ e.bits.length) ∧
    (∃ text e, encodeText text = .ok e ∧ e.bits.length = 46)

/-- 30_encoding.md R65, table R65-T. -/
def Obligations.ModuleSequenceLayout : Prop :=
  ∀ text values e c k, encodeText text = .ok e → List.Forall₂ HasValue text values →
    c = checksum values 20 → k = checksum (values ++ [c]) 15 →
    e.bits.length = (text.length + 4) * 9 + 1 ∧
      (∀ slot j i p, slot ≤ text.length + 3 → j ≤ 8 → (slotIndices values c k)[slot]? = some i → symrom i = some p →
        e.bits[9 * slot + j]? = some (p.getLsbD (8 - j))) ∧
      (∀ slot, slot ≤ text.length + 3 → ∃ i p, (slotIndices values c k)[slot]? = some i ∧ symrom i = some p) ∧
      e.bits[9 * text.length + 36]? = some true

/-- 42_pattern_encoder.md R138, with the model's patterns (log 9): both sentinels, the terminator, and a 1 first and a 0 last in
every slot. -/
def Obligations.ModuleSequenceShape : Prop :=
  ∀ text e, encodeText text = .ok e →
    e.bits.take 9 = [true, false, true, false, true, true, true, true, false] ∧
      e.bits.drop (e.bits.length - 10) = [true, false, true, false, true, true, true, true, false, true] ∧
      ∀ slot, slot ≤ text.length + 3 → e.bits[9 * slot]? = some true ∧ e.bits[9 * slot + 8]? = some false

/-- 42_pattern_encoder.md R135: what `ENC` gives depends on the text alone. -/
def Obligations.EncDependsOnTheTextAlone : Prop :=
  ∀ s₁ s₂ t₁ t₂, s₁.txt = s₂.txt → exec .enc s₁ = .next t₁ → exec .enc s₂ = .next t₂ →
    t₁.enc = t₂.enc ∧ t₁.err = t₂.err ∧ t₁.resp = t₂.resp

/-- 42_pattern_encoder.md R136: on every outcome `TXT` and `LEN` are what they were; with the text kept, `CSYM` and `KSYM` give the
host the text with its check symbols. -/
def Obligations.EncKeepsTheText : Prop :=
  ∀ s : State, ∃ t, exec .enc s = .next t ∧ t.txt = s.txt ∧ (∀ index, readSpace 3 index t = readSpace 3 index s) ∧
    readSpace 0 3 t = readSpace 0 3 s ∧
    (∀ values e, t.enc = some e → List.Forall₂ HasValue s.txt values →
      e.ksym = BitVec.ofNat 6 (checksum (values ++ [e.csym.toNat]) 15))

/-- 43_run_encoder.md R150, R152: the runs of a non-empty sequence are the one division of it into maximal spans of equal bits, so
they give the sequence back and no two neighbours share a fill. -/
def Obligations.RunsAreTheMaximalSpans : Prop :=
  ∀ bits rs, bits ≠ [] → (rs = runsOf bits ↔ bitsOfRuns rs = bits ∧ MaximalRuns rs)

/-- 43_run_encoder.md R153, with the model's patterns (log 9). -/
def Obligations.RunsOfAnEncoding : Prop :=
  ∀ text e, encodeText text = .ok e →
    (runsOf e.bits).length = 6 * (text.length + 4) + 1 ∧
      (runsOf e.bits).countP Run.fill = 3 * (text.length + 4) + 1 ∧
      (∀ i r, (runsOf e.bits)[i]? = some r → r.fill = decide (i % 2 = 0) ∧ 1 ≤ r.width ∧ r.width ≤ 4) ∧
      (runsOf e.bits).take 5 = [⟨true, 1⟩, ⟨false, 1⟩, ⟨true, 1⟩, ⟨false, 1⟩, ⟨true, 4⟩] ∧
      (runsOf e.bits)[6 * (text.length + 4)]? = some ⟨true, 1⟩

/-- 43_run_encoder.md R154: `RUNS` leaves the bits and can be issued again with the same result. -/
def Obligations.RunsDoesNotConsumeTheBits : Prop :=
  ∀ s t, exec .runs s = .next t →
    t.enc = s.enc ∧ encv t = encv s ∧ readSpace 0 9 t = readSpace 0 9 s ∧
      (∀ index, readSpace 4 index t = readSpace 4 index s) ∧
      (∀ e, s.enc = some e → ∃ u, exec .runs t = .next u ∧ u.runs = t.runs)

/-- 44_geometric_scaler.md R164, for every number domain, and HPRL's two examples in ℚ. -/
def Obligations.CanvasSize : Prop :=
  (∀ (α : Type) (d : NumDomain α) (rs₁ rs₂ : List Run) (w h p : α),
      (geometry d rs₁ w h p).canvasW = d.add w (d.mul (d.ofNat 2) p) ∧
        (geometry d rs₁ w h p).canvasH = d.add h (d.mul (d.ofNat 2) p) ∧
        (geometry d rs₁ w h p).canvasW = (geometry d rs₂ w h p).canvasW ∧
        (geometry d rs₁ w h p).canvasH = (geometry d rs₂ w h p).canvasH) ∧
    (∀ rs, (geometry ratDomain rs 120 35 0).canvasW = 120 ∧ (geometry ratDomain rs 120 35 0).canvasH = 35 ∧
      (geometry ratDomain rs 120 35 5).canvasW = 130 ∧ (geometry ratDomain rs 120 35 5).canvasH = 45)

/-- 44_geometric_scaler.md R167: an illegal request computes nothing; in ℚ it is exactly `WIDTH ≤ 0` or `HEIGHT ≤ 0`, and any padding
is legal, and likewise in fixed point (log 23). What `pos` and `fin` are true of in each named format (R160): in binary64 the finite
values are the rationals and the negative zero, so that a not-a-number, an infinity or a zero of either sign as `WIDTH` or `HEIGHT` is
illegal, and a not-a-number or an infinity as `PADDING`, but no finite padding. That these are all the values of binary64 is the
model's (log 6). -/
def Obligations.IllegalGeometryRequests : Prop :=
  (∀ s rs, s.runs = some rs →
      (numDomain s.cfg.num).pos s.width = false ∨ (numDomain s.cfg.num).pos s.height = false ∨
        (numDomain s.cfg.num).fin s.padding = false →
      exec .geom s =
        .next { s with geo := none, err := .invalidGeometryRequest, resp := some (.cmd .invalidGeometryRequest) }) ∧
    (∀ s rs (w h p : ℚ), s.runs = some rs → totalWidth rs ≠ 0 → s.cfg.num = .exact → s.width = .rat w → s.height = .rat h →
      s.padding = .rat p →
      ((w ≤ 0 ∨ h ≤ 0) → ∃ t, exec .geom s = .next t ∧ t.err = .invalidGeometryRequest ∧ t.runs = s.runs) ∧
        (0 < w → 0 < h → ∃ t, exec .geom s = .next t ∧ t.err = .ok ∧ geov t = true)) ∧
    (∀ fmt x, (numDomain fmt).pos x = true → (numDomain fmt).fin x = true) ∧
    (∀ fmt q, fmt = .exact ∨ fmt = .binary64 ∨ (∃ f, fmt = .fixedPoint f) →
      (numDomain fmt).fin (.rat q) = true ∧ ((numDomain fmt).pos (.rat q) = true ↔ 0 < q)) ∧
    (∀ x, isNum .binary64 x = true →
      ((numDomain .binary64).fin x = true ↔ x ≠ .nan ∧ x ≠ .inf true ∧ x ≠ .inf false) ∧
        ((numDomain .binary64).pos x = true ↔ ∃ q, x = .rat q ∧ 0 < q)) ∧
    (∀ s rs, s.runs = some rs → totalWidth rs ≠ 0 → s.cfg.num = .binary64 →
      (s.width ∈ [.nan, .inf true, .inf false, .negZero, .rat 0] ∨
          s.height ∈ [.nan, .inf true, .inf false, .negZero, .rat 0] ∨ s.padding ∈ [.nan, .inf true, .inf false] →
        exec .geom s =
          .next { s with geo := none, err := .invalidGeometryRequest, resp := some (.cmd .invalidGeometryRequest) }) ∧
        (∀ w h, s.width = .rat w → s.height = .rat h → 0 < w → 0 < h → s.padding = .negZero ∨ (∃ p, s.padding = .rat p) →
          ∃ t, exec .geom s = .next t ∧ t.err = .ok ∧ geov t = true))

/-- 44_geometric_scaler.md R165 (b), in ℚ: the rectangle of the inked run `i` is at `padding + start·width/N` and is
`width_i·width/N` wide. -/
def Obligations.GeometryClosedForm : Prop :=
  ∀ s rs (w h p : ℚ), s.runs = some rs → totalWidth rs ≠ 0 → s.cfg.num = .exact → s.width = .rat w → s.height = .rat h →
    s.padding = .rat p → 0 < w → 0 < h →
    ∃ t g, exec .geom s = .next t ∧ t.geo = some g ∧ g.rects.length = rs.countP Run.fill ∧
      g.canvasW = .rat (w + 2 * p) ∧ g.canvasH = .rat (h + 2 * p) ∧
      ∀ i r, rs[i]? = some r → r.fill = true →
        g.rects[inkedBefore rs i]? =
          some { x := .rat (p + startOf rs i * w / totalWidth rs), w := .rat (r.width * w / totalWidth rs) }

/-- 44_geometric_scaler.md R165 (a), (c), (d), in ℚ: the run widths cover the target width exactly; rectangles lie in order, do not
overlap, and stay between the paddings. -/
def Obligations.GeometryCoverage : Prop :=
  ∀ (rs : List Run) (w h p : ℚ), 0 < w → totalWidth rs ≠ 0 → (∀ r ∈ rs, 1 ≤ r.width) →
    (rs.map (fun r => (r.width : ℚ) * moduleWidth ratDomain rs w)).sum = w ∧
      (geometry ratDomain rs w h p).rects.IsChain (fun a b => a.x + a.w ≤ b.x ∧ a.x < b.x) ∧
      ∀ r ∈ (geometry ratDomain rs w h p).rects, p ≤ r.x ∧ 0 < r.w ∧ r.x + r.w ≤ p + w

/-- 43_run_encoder.md R153, 44_geometric_scaler.md R161, R166, in every reachable state: the run widths sum to `NBITS` (so that
log 15 changes nothing), and there is one rectangle for each inked run. -/
def Obligations.RunAndRectangleCounts : Prop :=
  ∀ s rs, StateInv s → s.runs = some rs →
    (∃ e, s.enc = some e ∧ totalWidth rs = e.bits.length) ∧ 46 ≤ totalWidth rs ∧
      rs.length = 6 * (s.txt.length + 4) + 1 ∧
      ∀ g, s.geo = some g →
        g.rects.length = rs.countP Run.fill ∧ g.rects.length = 3 * (s.txt.length + 4) + 1

/-- 41_checksum.md R125: `CSUM 20`, `PUSH` of the code it gave, `CSUM 15` give in `VAL` what `ENC` writes to `CSYM` and `KSYM`. -/
def Obligations.CsumStagesMatchEnc : Prop :=
  ∀ s e, encodeText s.txt = .ok e → (∀ n, s.cfg.textMax = some n → s.txt.length < n) →
    ∃ t₁ y₁ t₂ t₃ y₃, exec (.csum 20#8) s = .next t₁ ∧ t₁.lookup = some y₁ ∧ exec (.push y₁.chr) t₁ = .next t₂ ∧
      exec (.csum 15#8) t₂ = .next t₃ ∧ t₃.lookup = some y₃ ∧ y₁.val = e.csym ∧ y₃.val = e.ksym ∧
      t₂.txt = s.txt ++ [y₁.chr] ∧ encv t₂ = false

/-- 44_geometric_scaler.md R168: the output in drawing order. -/
def Obligations.DrawingOrder : Prop :=
  ∀ s g, s.geo = some g →
    (s.bgColor = none → drawing s = some (g.rects.map (fun r => ⟨r.x, s.padding, r.w, s.height, s.fillColor⟩))) ∧
    (∀ c, s.bgColor = some c →
      drawing s =
        some (⟨(numDomain s.cfg.num).ofNat 0, (numDomain s.cfg.num).ofNat 0, g.canvasW, g.canvasH, c⟩ ::
          g.rects.map (fun r => ⟨r.x, s.padding, r.w, s.height, s.fillColor⟩)))

/-! ## The bus -/

/-- 20_memory.md R42: what a `WR` of each of the five registers does, and that there is no other address to write. Every `COLOUR` has
`"#000"`, and strings are all colours of the reference (00_scope.md R6). -/
def Obligations.WriteTransactions : Prop :=
  ∀ s : State,
    (∀ x, isNum s.cfg.num x = true →
      busWrite 0 16 (.num x) s = { s with width := x, geo := none, resp := some .wrOk } ∧
        busWrite 0 17 (.num x) s = { s with height := x, geo := none, resp := some .wrOk } ∧
        busWrite 0 18 (.num x) s = { s with padding := x, geo := none, resp := some .wrOk }) ∧
    (∀ c, isColour s.cfg.colour c = true →
      busWrite 0 19 (.colour c) s = { s with fillColor := c, geo := none, resp := some .wrOk }) ∧
    (∀ c, c.all (isColour s.cfg.colour) = true →
      busWrite 0 20 (.bgColour c) s = { s with bgColor := c, geo := none, resp := some .wrOk }) ∧
    isColour s.cfg.colour (.text "#000") = true ∧ (∀ x, isColour .strings (.text x) = true) ∧
    (∀ space index v, ¬ (space = 0 ∧ 16 ≤ index ∧ index ≤ 20) →
      busWrite space index v s = { s with resp := some .badAddress })

/-- 20_memory.md R43 over all nine spaces and all indices; the capacities are those of 00_scope.md R6, and an index beyond one is
`BadAddress` whatever the flag (log 17). `RD` changes no state. -/
def Obligations.ReadTransactions : Prop :=
  ∀ s : State,
    (readSpace 0 0 s = .rdOk (.word (statusWord s)) ∧ readSpace 0 3 s = .rdOk (.nat s.txt.length) ∧
      readSpace 0 16 s = .rdOk (.num s.width) ∧ readSpace 0 17 s = .rdOk (.num s.height) ∧
      readSpace 0 18 s = .rdOk (.num s.padding) ∧ readSpace 0 19 s = .rdOk (.colour s.fillColor) ∧
      readSpace 0 20 s = .rdOk (.bgColour s.bgColor)) ∧
    (∀ c p, s.err = .invalidCharacter c p ∨ s.err = .unknownSymbol c p →
      readSpace 0 1 s = .rdOk (.code c) ∧ readSpace 0 2 s = .rdOk (.nat p)) ∧
    (s.err.code ≠ 2#4 → s.err.code ≠ 3#4 → readSpace 0 1 s = .noValue ∧ readSpace 0 2 s = .noValue) ∧
    (∀ y, s.lookup = some y → readSpace 0 4 s = .rdOk (.value y.val) ∧ readSpace 0 5 s = .rdOk (.code y.chr) ∧
      readSpace 0 6 s = .rdOk (.pattern y.pat)) ∧
    (lkv s = false → readSpace 0 4 s = .noValue ∧ readSpace 0 5 s = .noValue ∧ readSpace 0 6 s = .noValue) ∧
    (∀ e, s.enc = some e → readSpace 0 7 s = .rdOk (.value e.csym) ∧ readSpace 0 8 s = .rdOk (.value e.ksym) ∧
      readSpace 0 9 s = .rdOk (.nat e.bits.length)) ∧
    (encv s = false → readSpace 0 7 s = .noValue ∧ readSpace 0 8 s = .noValue ∧ readSpace 0 9 s = .noValue) ∧
    (∀ rs, s.runs = some rs → readSpace 0 10 s = .rdOk (.nat rs.length)) ∧
    (runv s = false → readSpace 0 10 s = .noValue) ∧
    (∀ g, s.geo = some g → readSpace 0 11 s = .rdOk (.nat g.rects.length) ∧ readSpace 0 12 s = .rdOk (.num g.canvasW) ∧
      readSpace 0 13 s = .rdOk (.num g.canvasH)) ∧
    (geov s = false → readSpace 0 11 s = .noValue ∧ readSpace 0 12 s = .noValue ∧ readSpace 0 13 s = .noValue) ∧
    (∀ index, index = 14 ∨ index = 15 ∨ 21 ≤ index → readSpace 0 index s = .badAddress) ∧
    (∀ index p, symrom index = some p → index ≤ 47 ∧ readSpace 1 index s = .rdOk (.pattern p)) ∧
    (∀ index c, chrrom index = some c → index ≤ 47 ∧ readSpace 2 index s = .rdOk (.code c)) ∧
    (∀ index, 48 ≤ index → readSpace 1 index s = .badAddress ∧ readSpace 2 index s = .badAddress) ∧
    (∀ n index, s.cfg.textMax = some n →
      (n ≤ index → readSpace 3 index s = .badAddress) ∧ ((n + 4) * 9 + 1 ≤ index → readSpace 4 index s = .badAddress) ∧
        (6 * (n + 4) + 1 ≤ index → readSpace 5 index s = .badAddress ∧ readSpace 6 index s = .badAddress) ∧
        (3 * (n + 4) + 1 ≤ index → readSpace 7 index s = .badAddress ∧ readSpace 8 index s = .badAddress)) ∧
    (∀ index, (∀ n, s.cfg.textMax = some n → index < n) →
      (∀ c, s.txt[index]? = some c → readSpace 3 index s = .rdOk (.code c)) ∧
        (s.txt.length ≤ index → readSpace 3 index s = .noValue)) ∧
    (∀ index, (∀ n, s.cfg.textMax = some n → index < (n + 4) * 9 + 1) →
      (∀ e b, s.enc = some e → e.bits[index]? = some b → readSpace 4 index s = .rdOk (.bit b)) ∧
        (∀ e, s.enc = some e → e.bits.length ≤ index → readSpace 4 index s = .noValue) ∧
        (encv s = false → readSpace 4 index s = .noValue)) ∧
    (∀ index, (∀ n, s.cfg.textMax = some n → index < 6 * (n + 4) + 1) →
      (∀ rs r, s.runs = some rs → rs[index]? = some r →
        readSpace 5 index s = .rdOk (.bit r.fill) ∧ readSpace 6 index s = .rdOk (.nat r.width)) ∧
        (∀ rs, s.runs = some rs → rs.length ≤ index → readSpace 5 index s = .noValue ∧ readSpace 6 index s = .noValue) ∧
        (runv s = false → readSpace 5 index s = .noValue ∧ readSpace 6 index s = .noValue)) ∧
    (∀ index, (∀ n, s.cfg.textMax = some n → index < 3 * (n + 4) + 1) →
      (∀ g r, s.geo = some g → g.rects[index]? = some r →
        readSpace 7 index s = .rdOk (.num r.x) ∧ readSpace 8 index s = .rdOk (.num r.w)) ∧
        (∀ g, s.geo = some g → g.rects.length ≤ index →
          readSpace 7 index s = .noValue ∧ readSpace 8 index s = .noValue) ∧
        (geov s = false → readSpace 7 index s = .noValue ∧ readSpace 8 index s = .noValue)) ∧
    (∀ space index, 9 ≤ space → readSpace space index s = .badAddress) ∧
    (∀ space index, busRead space index s = { s with resp := some (readSpace space index s) })

/-- 20_memory.md R46, R47: `BadAddress` has code 9, `NoValue` has code 10; each is a response only, without data, and the second is a
response of `RD` only. -/
def Obligations.BusErrorsChangeNothing : Prop :=
  Response.code .badAddress = 9#4 ∧ Response.code .noValue = 10#4 ∧
    (∀ s space index v, (busWrite space index v s).resp = some .badAddress →
      busWrite space index v s = { s with resp := some .badAddress }) ∧
    (∀ s space index v, (busWrite space index v s).resp ≠ some .noValue) ∧
    (∀ s space index, (busRead space index s).resp = some .badAddress →
      busRead space index s = { s with resp := some .badAddress }) ∧
    (∀ s space index, (busRead space index s).resp = some .noValue →
      busRead space index s = { s with resp := some .noValue })

/-- 20_memory.md R49, R54: a `RD` gives what the latest `WR` wrote, a `WR` done twice is done once, and a repeated `RD` responds the
same. -/
def Obligations.ReadGivesTheLatestWrite : Prop :=
  (∀ s index v, (busWrite 0 index v s).resp = some .wrOk →
      readSpace 0 index (busWrite 0 index v s) = .rdOk v) ∧
    (∀ s space index v, busWrite space index v (busWrite space index v s) = busWrite space index v s) ∧
    (∀ s space index, busRead space index (busRead space index s) = busRead space index s)

/-! ## Whole-machine rules -/

/-- 10_state.md R13, R17 to R19: the text is written by `PUSH`, which appends, and by `CLR` and reset, which empty it; an element of
`BITS` changes by `ENC` only, one of `RUNF` or `RUNW` by `RUNS` only, one of `RECTX` or `RECTW` by `GEOM` only, and whatever else
happens keeps the whole buffer or makes it invalid. -/
def Obligations.BuffersWrittenOnlyByTheirCommands : Prop :=
  (∀ s e t, serve e s = .next t → t.txt ≠ s.txt →
      (∃ w c, e = .cmd w ∧ decodeCmd w = .instr (.push c) ∧ t.txt = s.txt ++ [c]) ∨ (e = .cmd 0x0000#16 ∧ t.txt = []) ∨
        (e = .reset ∧ t.txt = [])) ∧
    (∀ s e t a b, serve e s = .next t → s.enc = some a → t.enc = some b → a ≠ b → e = .cmd 0x5000#16) ∧
    (∀ s e t a b, serve e s = .next t → s.runs = some a → t.runs = some b → a ≠ b → e = .cmd 0x6000#16) ∧
    (∀ s e t a b, serve e s = .next t → s.geo = some a → t.geo = some b → a ≠ b → e = .cmd 0x7000#16)

/-- 10_state.md R25, R26, 20_memory.md R42, 70_reset_and_hazards.md R240: over every event, a configuration register changes only by
a `WR` to one of the five with a value of its type, or by reset; no command changes one, and no event changes the parameters (log 4).
That a value not of the register's type is written nowhere is the model's reading of R42 (log 7). -/
def Obligations.ConfigurationChangesOnlyByTypedWrites : Prop :=
  (∀ s e t, serve e s = .next t → configuration t ≠ configuration s →
      (∃ space index v, e = .wr space index v ∧ IsConfigWrite s.cfg space index v) ∨ e = .reset) ∧
  (∀ s w t, serve (.cmd w) s = .next t →
      t.width = s.width ∧ t.height = s.height ∧ t.padding = s.padding ∧ t.fillColor = s.fillColor ∧
        t.bgColor = s.bgColor) ∧
    (∀ s e t, serve e s = .next t → t.cfg = s.cfg ∧ t.input = s.input) ∧
    (∀ s space index v, ¬ IsConfigWrite s.cfg space index v →
      busWrite space index v s = { s with resp := some .badAddress })

/-- 70_reset_and_hazards.md R246: after `PUSH`, `CLR` or a failed `ENC` no result of the old text can be read, and none appears but
by `ENC`, `RUNS`, `GEOM`. -/
def Obligations.TextChangeInvalidatesResults : Prop :=
  (∀ i s t, (i = .clr ∨ (∃ c, i = .push c ∧ t.err = .ok) ∨ (i = .enc ∧ t.err ≠ .ok)) → exec i s = .next t →
      ResultsUnreadable t) ∧
    (∀ s e t, serve e s = .next t → s.enc = none → t.enc ≠ none → e = .cmd 0x5000#16) ∧
    (∀ s e t, serve e s = .next t → s.runs = none → t.runs ≠ none → e = .cmd 0x6000#16) ∧
    (∀ s e t, serve e s = .next t → s.geo = none → t.geo ≠ none → e = .cmd 0x7000#16)

/-- 70_reset_and_hazards.md R247: a `WR` of any of the five registers, of an equal value too, makes the geometry unreadable until
`GEOM`; the runs stay. -/
def Obligations.ConfigurationChangeInvalidatesGeometryOnly : Prop :=
  (∀ s index v, IsConfigWrite s.cfg 0 index v →
      (busWrite 0 index v s).resp = some .wrOk ∧
      (∀ r, 11 ≤ r → r ≤ 13 → readSpace 0 r (busWrite 0 index v s) = .noValue) ∧
      (∀ k, Unreadable (readSpace 7 k (busWrite 0 index v s)) ∧ Unreadable (readSpace 8 k (busWrite 0 index v s))) ∧
      (busWrite 0 index v s).runs = s.runs ∧ (busWrite 0 index v s).enc = s.enc ∧ (busWrite 0 index v s).txt = s.txt) ∧
    (∀ s e t, serve e s = .next t → s.geo = none → t.geo ≠ none → e = .cmd 0x7000#16)

/-- Frame of `LUC`, `LUV`, `CSUM` (20_memory.md, table R56-T), through the read of one element: only `STATUS`, `ECHAR`, `EPOS`, `VAL`,
`CHR`, `PAT` can read differently. -/
def Obligations.FrameOfLookupCommands : Prop :=
  ∀ i x s t, i = Instr.luc x ∨ i = Instr.luv x ∨ i = Instr.csum x → exec i s = .next t →
    (∀ space index, ¬ (space = 0 ∧ index ∈ [0, 1, 2, 4, 5, 6]) → readSpace space index t = readSpace space index s) ∧
      t.cfg = s.cfg ∧ t.input = s.input

/-- Frame of `CLR` and `PUSH` (table R56-T): what `PUSH` stores to is `TXT[LEN]`; every other element of `TXT`, the ROMs, the lookup
registers (for `PUSH`) and the configuration read as before. -/
def Obligations.FrameOfTextCommands : Prop :=
  (∀ c s t, exec (.push c) s = .next t →
      (∀ space index,
        ¬ (space = 0 ∧ index ∈ [0, 1, 2, 3, 7, 8, 9, 10, 11, 12, 13]) → ¬ (space = 3 ∧ index = s.txt.length) →
        ¬ (4 ≤ space ∧ space ≤ 8) → readSpace space index t = readSpace space index s) ∧
        t.cfg = s.cfg ∧ t.input = s.input) ∧
    (∀ (s t : State), exec .clr s = .next t →
      (∀ space index, ¬ (space = 0 ∧ index ≤ 13) → ¬ (3 ≤ space ∧ space ≤ 8) →
        readSpace space index t = readSpace space index s) ∧
        t.cfg = s.cfg ∧ t.input = s.input)

/-- Frame of `ENC`, `RUNS`, `GEOM` (table R56-T): each leaves the text, the lookup registers, the configuration, the ROMs and the
results of the stages before it. -/
def Obligations.FrameOfStageCommands : Prop :=
  (∀ (s t : State), exec .enc s = .next t →
      (∀ space index, ¬ (space = 0 ∧ index ∈ [0, 1, 2, 7, 8, 9, 10, 11, 12, 13]) → ¬ (4 ≤ space ∧ space ≤ 8) →
        readSpace space index t = readSpace space index s) ∧
        t.cfg = s.cfg ∧ t.input = s.input) ∧
    (∀ (s t : State), exec .runs s = .next t →
      (∀ space index, ¬ (space = 0 ∧ index ∈ [0, 1, 2, 10, 11, 12, 13]) → ¬ (5 ≤ space ∧ space ≤ 8) →
        readSpace space index t = readSpace space index s) ∧
        t.cfg = s.cfg ∧ t.input = s.input) ∧
    (∀ (s t : State), exec .geom s = .next t →
      (∀ space index, ¬ (space = 0 ∧ index ∈ [0, 1, 2, 11, 12, 13]) → ¬ (7 ≤ space ∧ space ≤ 8) →
        readSpace space index t = readSpace space index s) ∧
        t.cfg = s.cfg ∧ t.input = s.input)

/-- 30_encoding.md R74, 70_reset_and_hazards.md R242: the expansion of `BARCODE "s"`, issued in any state whose configuration is legal,
brings any user text that fits from characters to rectangles, with the sizes of R134, R153 and R166, of which the
number of runs and that of rectangles rest on the model's patterns (log 9). -/
def Obligations.BarcodeCompletes : Prop :=
  ∀ (s : State) (text : List Code), text ≠ [] → (∀ c ∈ text, IsUserCode c) →
    (∀ n, s.cfg.textMax = some n → text.length ≤ n) →
    legalRequest (numDomain s.cfg.num) s.width s.height s.padding = true →
    ∃ t, Host.Core.run Sys2Proof.core (text.length + 4) { s with input := barcodeEvents text } = .next t ∧
      t.input = [] ∧ t.err = .ok ∧ t.txt = text ∧ flags t = (false, true, true, true) ∧
      readSpace 0 9 t = .rdOk (.nat ((text.length + 4) * 9 + 1)) ∧
      readSpace 0 10 t = .rdOk (.nat (6 * (text.length + 4) + 1)) ∧
      readSpace 0 11 t = .rdOk (.nat (3 * (text.length + 4) + 1))
end

