-- ==== Sys2Proof/Laws/State.lean ====
section
/-! SUPPORT. One lemma per field per update of the state, true by rfl, so that no later proof unfolds a record update. -/

namespace Sys2Proof.Machine

/-! ## clearLookup -/

@[simp] theorem clearLookup_cfg (s : State) : (clearLookup s).cfg = s.cfg := rfl
@[simp] theorem clearLookup_txt (s : State) : (clearLookup s).txt = s.txt := rfl
@[simp] theorem clearLookup_lookup (s : State) : (clearLookup s).lookup = none := rfl
@[simp] theorem clearLookup_enc (s : State) : (clearLookup s).enc = s.enc := rfl
@[simp] theorem clearLookup_runs (s : State) : (clearLookup s).runs = s.runs := rfl
@[simp] theorem clearLookup_geo (s : State) : (clearLookup s).geo = s.geo := rfl
@[simp] theorem clearLookup_width (s : State) : (clearLookup s).width = s.width := rfl
@[simp] theorem clearLookup_height (s : State) : (clearLookup s).height = s.height := rfl
@[simp] theorem clearLookup_padding (s : State) : (clearLookup s).padding = s.padding := rfl
@[simp] theorem clearLookup_fillColor (s : State) : (clearLookup s).fillColor = s.fillColor := rfl
@[simp] theorem clearLookup_bgColor (s : State) : (clearLookup s).bgColor = s.bgColor := rfl
@[simp] theorem clearLookup_err (s : State) : (clearLookup s).err = s.err := rfl
@[simp] theorem clearLookup_input (s : State) : (clearLookup s).input = s.input := rfl
@[simp] theorem clearLookup_resp (s : State) : (clearLookup s).resp = s.resp := rfl

/-! ## clearGeometry -/

@[simp] theorem clearGeometry_cfg (s : State) : (clearGeometry s).cfg = s.cfg := rfl
@[simp] theorem clearGeometry_txt (s : State) : (clearGeometry s).txt = s.txt := rfl
@[simp] theorem clearGeometry_lookup (s : State) : (clearGeometry s).lookup = s.lookup := rfl
@[simp] theorem clearGeometry_enc (s : State) : (clearGeometry s).enc = s.enc := rfl
@[simp] theorem clearGeometry_runs (s : State) : (clearGeometry s).runs = s.runs := rfl
@[simp] theorem clearGeometry_geo (s : State) : (clearGeometry s).geo = none := rfl
@[simp] theorem clearGeometry_width (s : State) : (clearGeometry s).width = s.width := rfl
@[simp] theorem clearGeometry_height (s : State) : (clearGeometry s).height = s.height := rfl
@[simp] theorem clearGeometry_padding (s : State) : (clearGeometry s).padding = s.padding := rfl
@[simp] theorem clearGeometry_fillColor (s : State) : (clearGeometry s).fillColor = s.fillColor := rfl
@[simp] theorem clearGeometry_bgColor (s : State) : (clearGeometry s).bgColor = s.bgColor := rfl
@[simp] theorem clearGeometry_err (s : State) : (clearGeometry s).err = s.err := rfl
@[simp] theorem clearGeometry_input (s : State) : (clearGeometry s).input = s.input := rfl
@[simp] theorem clearGeometry_resp (s : State) : (clearGeometry s).resp = s.resp := rfl

/-! ## clearResults -/

@[simp] theorem clearResults_cfg (s : State) : (clearResults s).cfg = s.cfg := rfl
@[simp] theorem clearResults_txt (s : State) : (clearResults s).txt = s.txt := rfl
@[simp] theorem clearResults_lookup (s : State) : (clearResults s).lookup = s.lookup := rfl
@[simp] theorem clearResults_enc (s : State) : (clearResults s).enc = none := rfl
@[simp] theorem clearResults_runs (s : State) : (clearResults s).runs = none := rfl
@[simp] theorem clearResults_geo (s : State) : (clearResults s).geo = none := rfl
@[simp] theorem clearResults_width (s : State) : (clearResults s).width = s.width := rfl
@[simp] theorem clearResults_height (s : State) : (clearResults s).height = s.height := rfl
@[simp] theorem clearResults_padding (s : State) : (clearResults s).padding = s.padding := rfl
@[simp] theorem clearResults_fillColor (s : State) : (clearResults s).fillColor = s.fillColor := rfl
@[simp] theorem clearResults_bgColor (s : State) : (clearResults s).bgColor = s.bgColor := rfl
@[simp] theorem clearResults_err (s : State) : (clearResults s).err = s.err := rfl
@[simp] theorem clearResults_input (s : State) : (clearResults s).input = s.input := rfl
@[simp] theorem clearResults_resp (s : State) : (clearResults s).resp = s.resp := rfl

/-! ## finish -/

@[simp] theorem finish_cfg (r : CmdResult) (s : State) : (finish r s).cfg = s.cfg := rfl
@[simp] theorem finish_txt (r : CmdResult) (s : State) : (finish r s).txt = s.txt := rfl
@[simp] theorem finish_lookup (r : CmdResult) (s : State) : (finish r s).lookup = s.lookup := rfl
@[simp] theorem finish_enc (r : CmdResult) (s : State) : (finish r s).enc = s.enc := rfl
@[simp] theorem finish_runs (r : CmdResult) (s : State) : (finish r s).runs = s.runs := rfl
@[simp] theorem finish_geo (r : CmdResult) (s : State) : (finish r s).geo = s.geo := rfl
@[simp] theorem finish_width (r : CmdResult) (s : State) : (finish r s).width = s.width := rfl
@[simp] theorem finish_height (r : CmdResult) (s : State) : (finish r s).height = s.height := rfl
@[simp] theorem finish_padding (r : CmdResult) (s : State) : (finish r s).padding = s.padding := rfl
@[simp] theorem finish_fillColor (r : CmdResult) (s : State) : (finish r s).fillColor = s.fillColor := rfl
@[simp] theorem finish_bgColor (r : CmdResult) (s : State) : (finish r s).bgColor = s.bgColor := rfl
@[simp] theorem finish_err (r : CmdResult) (s : State) : (finish r s).err = r := rfl
@[simp] theorem finish_input (r : CmdResult) (s : State) : (finish r s).input = s.input := rfl
@[simp] theorem finish_resp (r : CmdResult) (s : State) : (finish r s).resp = some (.cmd r) := rfl

/-! ## appendChar -/

@[simp] theorem appendChar_cfg (c : Code) (s : State) : (appendChar c s).cfg = s.cfg := rfl
@[simp] theorem appendChar_txt (c : Code) (s : State) : (appendChar c s).txt = s.txt ++ [c] := rfl
@[simp] theorem appendChar_lookup (c : Code) (s : State) : (appendChar c s).lookup = s.lookup := rfl
@[simp] theorem appendChar_enc (c : Code) (s : State) : (appendChar c s).enc = s.enc := rfl
@[simp] theorem appendChar_runs (c : Code) (s : State) : (appendChar c s).runs = s.runs := rfl
@[simp] theorem appendChar_geo (c : Code) (s : State) : (appendChar c s).geo = s.geo := rfl
@[simp] theorem appendChar_width (c : Code) (s : State) : (appendChar c s).width = s.width := rfl
@[simp] theorem appendChar_height (c : Code) (s : State) : (appendChar c s).height = s.height := rfl
@[simp] theorem appendChar_padding (c : Code) (s : State) : (appendChar c s).padding = s.padding := rfl
@[simp] theorem appendChar_fillColor (c : Code) (s : State) : (appendChar c s).fillColor = s.fillColor := rfl
@[simp] theorem appendChar_bgColor (c : Code) (s : State) : (appendChar c s).bgColor = s.bgColor := rfl
@[simp] theorem appendChar_err (c : Code) (s : State) : (appendChar c s).err = s.err := rfl
@[simp] theorem appendChar_input (c : Code) (s : State) : (appendChar c s).input = s.input := rfl
@[simp] theorem appendChar_resp (c : Code) (s : State) : (appendChar c s).resp = s.resp := rfl

/-! ## emptyText -/

@[simp] theorem emptyText_cfg (s : State) : (emptyText s).cfg = s.cfg := rfl
@[simp] theorem emptyText_txt (s : State) : (emptyText s).txt = [] := rfl
@[simp] theorem emptyText_lookup (s : State) : (emptyText s).lookup = s.lookup := rfl
@[simp] theorem emptyText_enc (s : State) : (emptyText s).enc = s.enc := rfl
@[simp] theorem emptyText_runs (s : State) : (emptyText s).runs = s.runs := rfl
@[simp] theorem emptyText_geo (s : State) : (emptyText s).geo = s.geo := rfl
@[simp] theorem emptyText_width (s : State) : (emptyText s).width = s.width := rfl
@[simp] theorem emptyText_height (s : State) : (emptyText s).height = s.height := rfl
@[simp] theorem emptyText_padding (s : State) : (emptyText s).padding = s.padding := rfl
@[simp] theorem emptyText_fillColor (s : State) : (emptyText s).fillColor = s.fillColor := rfl
@[simp] theorem emptyText_bgColor (s : State) : (emptyText s).bgColor = s.bgColor := rfl
@[simp] theorem emptyText_err (s : State) : (emptyText s).err = s.err := rfl
@[simp] theorem emptyText_input (s : State) : (emptyText s).input = s.input := rfl
@[simp] theorem emptyText_resp (s : State) : (emptyText s).resp = s.resp := rfl

/-! ## writeLookup -/

@[simp] theorem writeLookup_cfg (y : Symbol) (s : State) : (writeLookup y s).cfg = s.cfg := rfl
@[simp] theorem writeLookup_txt (y : Symbol) (s : State) : (writeLookup y s).txt = s.txt := rfl
@[simp] theorem writeLookup_lookup (y : Symbol) (s : State) : (writeLookup y s).lookup = some y := rfl
@[simp] theorem writeLookup_enc (y : Symbol) (s : State) : (writeLookup y s).enc = s.enc := rfl
@[simp] theorem writeLookup_runs (y : Symbol) (s : State) : (writeLookup y s).runs = s.runs := rfl
@[simp] theorem writeLookup_geo (y : Symbol) (s : State) : (writeLookup y s).geo = s.geo := rfl
@[simp] theorem writeLookup_width (y : Symbol) (s : State) : (writeLookup y s).width = s.width := rfl
@[simp] theorem writeLookup_height (y : Symbol) (s : State) : (writeLookup y s).height = s.height := rfl
@[simp] theorem writeLookup_padding (y : Symbol) (s : State) : (writeLookup y s).padding = s.padding := rfl
@[simp] theorem writeLookup_fillColor (y : Symbol) (s : State) : (writeLookup y s).fillColor = s.fillColor := rfl
@[simp] theorem writeLookup_bgColor (y : Symbol) (s : State) : (writeLookup y s).bgColor = s.bgColor := rfl
@[simp] theorem writeLookup_err (y : Symbol) (s : State) : (writeLookup y s).err = s.err := rfl
@[simp] theorem writeLookup_input (y : Symbol) (s : State) : (writeLookup y s).input = s.input := rfl
@[simp] theorem writeLookup_resp (y : Symbol) (s : State) : (writeLookup y s).resp = s.resp := rfl

/-! ## writeEncoded -/

@[simp] theorem writeEncoded_cfg (e : Encoded) (s : State) : (writeEncoded e s).cfg = s.cfg := rfl
@[simp] theorem writeEncoded_txt (e : Encoded) (s : State) : (writeEncoded e s).txt = s.txt := rfl
@[simp] theorem writeEncoded_lookup (e : Encoded) (s : State) : (writeEncoded e s).lookup = s.lookup := rfl
@[simp] theorem writeEncoded_enc (e : Encoded) (s : State) : (writeEncoded e s).enc = some e := rfl
@[simp] theorem writeEncoded_runs (e : Encoded) (s : State) : (writeEncoded e s).runs = none := rfl
@[simp] theorem writeEncoded_geo (e : Encoded) (s : State) : (writeEncoded e s).geo = none := rfl
@[simp] theorem writeEncoded_width (e : Encoded) (s : State) : (writeEncoded e s).width = s.width := rfl
@[simp] theorem writeEncoded_height (e : Encoded) (s : State) : (writeEncoded e s).height = s.height := rfl
@[simp] theorem writeEncoded_padding (e : Encoded) (s : State) : (writeEncoded e s).padding = s.padding := rfl
@[simp] theorem writeEncoded_fillColor (e : Encoded) (s : State) : (writeEncoded e s).fillColor = s.fillColor := rfl
@[simp] theorem writeEncoded_bgColor (e : Encoded) (s : State) : (writeEncoded e s).bgColor = s.bgColor := rfl
@[simp] theorem writeEncoded_err (e : Encoded) (s : State) : (writeEncoded e s).err = s.err := rfl
@[simp] theorem writeEncoded_input (e : Encoded) (s : State) : (writeEncoded e s).input = s.input := rfl
@[simp] theorem writeEncoded_resp (e : Encoded) (s : State) : (writeEncoded e s).resp = s.resp := rfl

/-! ## writeRuns -/

@[simp] theorem writeRuns_cfg (rs : List Run) (s : State) : (writeRuns rs s).cfg = s.cfg := rfl
@[simp] theorem writeRuns_txt (rs : List Run) (s : State) : (writeRuns rs s).txt = s.txt := rfl
@[simp] theorem writeRuns_lookup (rs : List Run) (s : State) : (writeRuns rs s).lookup = s.lookup := rfl
@[simp] theorem writeRuns_enc (rs : List Run) (s : State) : (writeRuns rs s).enc = s.enc := rfl
@[simp] theorem writeRuns_runs (rs : List Run) (s : State) : (writeRuns rs s).runs = some rs := rfl
@[simp] theorem writeRuns_geo (rs : List Run) (s : State) : (writeRuns rs s).geo = none := rfl
@[simp] theorem writeRuns_width (rs : List Run) (s : State) : (writeRuns rs s).width = s.width := rfl
@[simp] theorem writeRuns_height (rs : List Run) (s : State) : (writeRuns rs s).height = s.height := rfl
@[simp] theorem writeRuns_padding (rs : List Run) (s : State) : (writeRuns rs s).padding = s.padding := rfl
@[simp] theorem writeRuns_fillColor (rs : List Run) (s : State) : (writeRuns rs s).fillColor = s.fillColor := rfl
@[simp] theorem writeRuns_bgColor (rs : List Run) (s : State) : (writeRuns rs s).bgColor = s.bgColor := rfl
@[simp] theorem writeRuns_err (rs : List Run) (s : State) : (writeRuns rs s).err = s.err := rfl
@[simp] theorem writeRuns_input (rs : List Run) (s : State) : (writeRuns rs s).input = s.input := rfl
@[simp] theorem writeRuns_resp (rs : List Run) (s : State) : (writeRuns rs s).resp = s.resp := rfl

/-! ## writeGeometry -/

@[simp] theorem writeGeometry_cfg (g : Geometry Number) (s : State) : (writeGeometry g s).cfg = s.cfg := rfl
@[simp] theorem writeGeometry_txt (g : Geometry Number) (s : State) : (writeGeometry g s).txt = s.txt := rfl
@[simp] theorem writeGeometry_lookup (g : Geometry Number) (s : State) : (writeGeometry g s).lookup = s.lookup := rfl
@[simp] theorem writeGeometry_enc (g : Geometry Number) (s : State) : (writeGeometry g s).enc = s.enc := rfl
@[simp] theorem writeGeometry_runs (g : Geometry Number) (s : State) : (writeGeometry g s).runs = s.runs := rfl
@[simp] theorem writeGeometry_geo (g : Geometry Number) (s : State) : (writeGeometry g s).geo = some g := rfl
@[simp] theorem writeGeometry_width (g : Geometry Number) (s : State) : (writeGeometry g s).width = s.width := rfl
@[simp] theorem writeGeometry_height (g : Geometry Number) (s : State) : (writeGeometry g s).height = s.height := rfl
@[simp] theorem writeGeometry_padding (g : Geometry Number) (s : State) : (writeGeometry g s).padding = s.padding := rfl
@[simp] theorem writeGeometry_fillColor (g : Geometry Number) (s : State) : (writeGeometry g s).fillColor = s.fillColor := rfl
@[simp] theorem writeGeometry_bgColor (g : Geometry Number) (s : State) : (writeGeometry g s).bgColor = s.bgColor := rfl
@[simp] theorem writeGeometry_err (g : Geometry Number) (s : State) : (writeGeometry g s).err = s.err := rfl
@[simp] theorem writeGeometry_input (g : Geometry Number) (s : State) : (writeGeometry g s).input = s.input := rfl
@[simp] theorem writeGeometry_resp (g : Geometry Number) (s : State) : (writeGeometry g s).resp = s.resp := rfl

/-! ## busRead -/

@[simp] theorem busRead_cfg (space index : Nat) (s : State) : (busRead space index s).cfg = s.cfg := rfl
@[simp] theorem busRead_txt (space index : Nat) (s : State) : (busRead space index s).txt = s.txt := rfl
@[simp] theorem busRead_lookup (space index : Nat) (s : State) : (busRead space index s).lookup = s.lookup := rfl
@[simp] theorem busRead_enc (space index : Nat) (s : State) : (busRead space index s).enc = s.enc := rfl
@[simp] theorem busRead_runs (space index : Nat) (s : State) : (busRead space index s).runs = s.runs := rfl
@[simp] theorem busRead_geo (space index : Nat) (s : State) : (busRead space index s).geo = s.geo := rfl
@[simp] theorem busRead_width (space index : Nat) (s : State) : (busRead space index s).width = s.width := rfl
@[simp] theorem busRead_height (space index : Nat) (s : State) : (busRead space index s).height = s.height := rfl
@[simp] theorem busRead_padding (space index : Nat) (s : State) : (busRead space index s).padding = s.padding := rfl
@[simp] theorem busRead_fillColor (space index : Nat) (s : State) : (busRead space index s).fillColor = s.fillColor := rfl
@[simp] theorem busRead_bgColor (space index : Nat) (s : State) : (busRead space index s).bgColor = s.bgColor := rfl
@[simp] theorem busRead_err (space index : Nat) (s : State) : (busRead space index s).err = s.err := rfl
@[simp] theorem busRead_input (space index : Nat) (s : State) : (busRead space index s).input = s.input := rfl
@[simp] theorem busRead_resp (space index : Nat) (s : State) : (busRead space index s).resp = some (readSpace space index s) := rfl

/-! ## issueFirst -/

@[simp] theorem issueFirst_cfg (e : Event) (s : State) : (issueFirst e s).cfg = s.cfg := rfl
@[simp] theorem issueFirst_txt (e : Event) (s : State) : (issueFirst e s).txt = s.txt := rfl
@[simp] theorem issueFirst_lookup (e : Event) (s : State) : (issueFirst e s).lookup = s.lookup := rfl
@[simp] theorem issueFirst_enc (e : Event) (s : State) : (issueFirst e s).enc = s.enc := rfl
@[simp] theorem issueFirst_runs (e : Event) (s : State) : (issueFirst e s).runs = s.runs := rfl
@[simp] theorem issueFirst_geo (e : Event) (s : State) : (issueFirst e s).geo = s.geo := rfl
@[simp] theorem issueFirst_width (e : Event) (s : State) : (issueFirst e s).width = s.width := rfl
@[simp] theorem issueFirst_height (e : Event) (s : State) : (issueFirst e s).height = s.height := rfl
@[simp] theorem issueFirst_padding (e : Event) (s : State) : (issueFirst e s).padding = s.padding := rfl
@[simp] theorem issueFirst_fillColor (e : Event) (s : State) : (issueFirst e s).fillColor = s.fillColor := rfl
@[simp] theorem issueFirst_bgColor (e : Event) (s : State) : (issueFirst e s).bgColor = s.bgColor := rfl
@[simp] theorem issueFirst_err (e : Event) (s : State) : (issueFirst e s).err = s.err := rfl
@[simp] theorem issueFirst_input (e : Event) (s : State) : (issueFirst e s).input = e :: s.input := rfl
@[simp] theorem issueFirst_resp (e : Event) (s : State) : (issueFirst e s).resp = s.resp := rfl

/-! ## Reset -/

@[simp] theorem afterReset_cfg (c : Config) : (State.afterReset c).cfg = c := rfl
@[simp] theorem afterReset_txt (c : Config) : (State.afterReset c).txt = [] := rfl
@[simp] theorem afterReset_lookup (c : Config) : (State.afterReset c).lookup = none := rfl
@[simp] theorem afterReset_enc (c : Config) : (State.afterReset c).enc = none := rfl
@[simp] theorem afterReset_runs (c : Config) : (State.afterReset c).runs = none := rfl
@[simp] theorem afterReset_geo (c : Config) : (State.afterReset c).geo = none := rfl
@[simp] theorem afterReset_width (c : Config) : (State.afterReset c).width = (numDomain c.num).ofNat 200 := rfl
@[simp] theorem afterReset_height (c : Config) : (State.afterReset c).height = (numDomain c.num).ofNat 50 := rfl
@[simp] theorem afterReset_padding (c : Config) : (State.afterReset c).padding = (numDomain c.num).ofNat 0 := rfl
@[simp] theorem afterReset_fillColor (c : Config) : (State.afterReset c).fillColor = .text "#000" := rfl
@[simp] theorem afterReset_bgColor (c : Config) : (State.afterReset c).bgColor = none := rfl
@[simp] theorem afterReset_err (c : Config) : (State.afterReset c).err = .ok := rfl
@[simp] theorem afterReset_input (c : Config) : (State.afterReset c).input = [] := rfl
@[simp] theorem afterReset_resp (c : Config) : (State.afterReset c).resp = none := rfl

@[simp] theorem serveReset_cfg (s : State) : (serveReset s).cfg = s.cfg := rfl
@[simp] theorem serveReset_txt (s : State) : (serveReset s).txt = [] := rfl
@[simp] theorem serveReset_lookup (s : State) : (serveReset s).lookup = none := rfl
@[simp] theorem serveReset_enc (s : State) : (serveReset s).enc = none := rfl
@[simp] theorem serveReset_runs (s : State) : (serveReset s).runs = none := rfl
@[simp] theorem serveReset_geo (s : State) : (serveReset s).geo = none := rfl
@[simp] theorem serveReset_width (s : State) : (serveReset s).width = (numDomain s.cfg.num).ofNat 200 := rfl
@[simp] theorem serveReset_height (s : State) : (serveReset s).height = (numDomain s.cfg.num).ofNat 50 := rfl
@[simp] theorem serveReset_padding (s : State) : (serveReset s).padding = (numDomain s.cfg.num).ofNat 0 := rfl
@[simp] theorem serveReset_fillColor (s : State) : (serveReset s).fillColor = .text "#000" := rfl
@[simp] theorem serveReset_bgColor (s : State) : (serveReset s).bgColor = none := rfl
@[simp] theorem serveReset_err (s : State) : (serveReset s).err = .ok := rfl
@[simp] theorem serveReset_input (s : State) : (serveReset s).input = s.input := rfl
@[simp] theorem serveReset_resp (s : State) : (serveReset s).resp = none := rfl

/-! ## The flags -/

theorem lkv_eq (s : State) : lkv s = s.lookup.isSome := rfl
theorem encv_eq (s : State) : encv s = s.enc.isSome := rfl
theorem runv_eq (s : State) : runv s = s.runs.isSome := rfl
theorem geov_eq (s : State) : geov s = s.geo.isSome := rfl

end Sys2Proof.Machine
end

