-- ==== Sys2Proof/Laws/Bus.lean ====
section
/-! SUPPORT. What a read depends on: equal state behind an address reads equally. -/

namespace Sys2Proof.Machine

/-- Below the capacity, or without one, a buffer element reads as what stands there. -/
theorem readBuffer_of_lt {f : Nat → Nat} {c : Config} {index : Nat} (v : Option Value)
    (h : ∀ n, c.textMax = some n → index < f n) : readBuffer (capacity f c) index v = valueOrNone v := by
  unfold readBuffer capacity
  cases hc : c.textMax with
  | none => simp
  | some n => simp [h n hc]

/-- At or beyond the capacity there is no element. -/
theorem readBuffer_of_ge {f : Nat → Nat} {c : Config} {index n : Nat} (v : Option Value) (hn : c.textMax = some n)
    (h : f n ≤ index) : readBuffer (capacity f c) index v = .badAddress := by
  simp [readBuffer, capacity, hn, h]

/-- A register reads the same where the part of the state it shows is the same. -/
theorem readReg_congr {s t : State} (index : Nat) (h0 : index = 0 → statusWord t = statusWord s)
    (h1 : index = 1 ∨ index = 2 → t.err = s.err) (h3 : index = 3 → t.txt = s.txt)
    (h4 : index = 4 ∨ index = 5 ∨ index = 6 → t.lookup = s.lookup)
    (h7 : index = 7 ∨ index = 8 ∨ index = 9 → t.enc = s.enc) (h10 : index = 10 → t.runs = s.runs)
    (h11 : index = 11 ∨ index = 12 ∨ index = 13 → t.geo = s.geo) (hw : t.width = s.width) (hh : t.height = s.height)
    (hp : t.padding = s.padding) (hf : t.fillColor = s.fillColor) (hb : t.bgColor = s.bgColor) :
    readReg index t = readReg index s := by
  unfold readReg
  split <;> first
    | rw [h0 rfl] | rw [h1 (by simp)] | rw [h3 rfl] | rw [h4 (by simp)] | rw [h7 (by simp)] | rw [h10 rfl]
    | rw [h11 (by simp)] | rw [hw] | rw [hh] | rw [hp] | rw [hf] | rw [hb] | rfl

/-- An address reads the same where the part of the state it shows is the same. -/
theorem readSpace_congr {s t : State} (space index : Nat)
    (h0 : space = 0 → index = 0 → statusWord t = statusWord s) (h1 : space = 0 → index = 1 ∨ index = 2 → t.err = s.err)
    (h3 : space = 0 → index = 3 → t.txt = s.txt)
    (h4 : space = 0 → index = 4 ∨ index = 5 ∨ index = 6 → t.lookup = s.lookup)
    (h7 : space = 0 → index = 7 ∨ index = 8 ∨ index = 9 → t.enc = s.enc) (h10 : space = 0 → index = 10 → t.runs = s.runs)
    (h11 : space = 0 → index = 11 ∨ index = 12 ∨ index = 13 → t.geo = s.geo)
    (ht : space = 3 → t.txt[index]? = s.txt[index]?) (he : space = 4 → t.enc = s.enc)
    (hr : space = 5 ∨ space = 6 → t.runs = s.runs) (hg : space = 7 ∨ space = 8 → t.geo = s.geo) (hc : t.cfg = s.cfg)
    (hw : t.width = s.width) (hh : t.height = s.height) (hp : t.padding = s.padding) (hf : t.fillColor = s.fillColor)
    (hb : t.bgColor = s.bgColor) : readSpace space index t = readSpace space index s := by
  unfold readSpace
  split
  · exact readReg_congr index (h0 rfl) (h1 rfl) (h3 rfl) (h4 rfl) (h7 rfl) (h10 rfl) (h11 rfl) hw hh hp hf hb
  · rfl
  · rfl
  · rw [hc, ht rfl]
  · rw [hc, he rfl]
  · rw [hc, hr (by simp)]
  · rw [hc, hr (by simp)]
  · rw [hc, hg (by simp)]
  · rw [hc, hg (by simp)]
  · rfl

end Sys2Proof.Machine
end

