-- ==== Sys2Proof/Laws/Decode.lean ====
section
/-! SUPPORT. The fields of a word, and the two decoders against the symbol table. -/

namespace Sys2Proof

@[simp] theorem opField_cmdWord (op : BitVec 4) (imm : Imm8) : opField (cmdWord op imm) = op := by
  apply BitVec.eq_of_getLsbD_eq
  intro i hi
  have : i = 0 ∨ i = 1 ∨ i = 2 ∨ i = 3 := by omega
  rcases this with rfl | rfl | rfl | rfl <;> simp only [opField, cmdWord, BitVec.getLsbD_extractLsb', BitVec.getLsbD_append] <;> simp

@[simp] theorem rsvField_cmdWord (op : BitVec 4) (imm : Imm8) : rsvField (cmdWord op imm) = 0#4 := by
  apply BitVec.eq_of_getLsbD_eq
  intro i hi
  have : i = 0 ∨ i = 1 ∨ i = 2 ∨ i = 3 := by omega
  rcases this with rfl | rfl | rfl | rfl <;> simp only [rsvField, cmdWord, BitVec.getLsbD_extractLsb', BitVec.getLsbD_append] <;> simp

@[simp] theorem immField_cmdWord (op : BitVec 4) (imm : Imm8) : immField (cmdWord op imm) = imm := by
  apply BitVec.eq_of_getLsbD_eq
  intro i hi
  simp only [immField, cmdWord, BitVec.getLsbD_extractLsb', BitVec.getLsbD_append]
  simp [hi, show i < 12 by omega]

/-- A word is its three fields. -/
theorem cmdWord_fields {w : CmdWord} (h : rsvField w = 0#4) : cmdWord (opField w) (immField w) = w := by
  apply BitVec.eq_of_getLsbD_eq
  intro i hi
  have hr : ∀ j, j < 4 → w.getLsbD (8 + j) = false := by
    intro j hj
    have := congrArg (fun v => v.getLsbD j) h
    simpa [rsvField, hj] using this
  simp only [cmdWord, opField, immField, BitVec.getLsbD_append, BitVec.getLsbD_extractLsb']
  by_cases h8 : i < 8
  · simp [h8, show i < 12 by omega]
  · by_cases h12 : i < 12
    · have := hr (i - 8) (by omega)
      rw [show 8 + (i - 8) = i by omega] at this
      simp [h12, h8, this]
    · simp [h12, show i - 12 < 4 by omega, show 12 + (i - 12) = i by omega]

/-- What a command word decodes to, by its fields. -/
theorem decodeCmd_cmdWord (op : BitVec 4) (imm : Imm8) : decodeCmd (cmdWord op imm) = decodeOp op imm := by
  simp [decodeCmd]

/-- The commands a legal word stands for. -/
theorem decodeCmd_cases {w : CmdWord} {i : Instr} (h : decodeCmd w = .instr i) :
    rsvField w = 0#4 ∧ decodeOp (opField w) (immField w) = .instr i := by
  unfold decodeCmd at h
  split at h
  · exact ⟨‹_›, h⟩
  · cases h

/-- `decodeOp`, inverted. -/
theorem decodeOp_cases {op : BitVec 4} {imm : Imm8} {i : Instr} (h : decodeOp op imm = .instr i) :
    (op = 0#4 ∧ imm = 0#8 ∧ i = .clr) ∨ (op = 1#4 ∧ i = .push imm) ∨ (op = 2#4 ∧ i = .luc imm) ∨
      (op = 3#4 ∧ i = .luv imm) ∨ (op = 4#4 ∧ i = .csum imm) ∨ (op = 5#4 ∧ imm = 0#8 ∧ i = .enc) ∨
      (op = 6#4 ∧ imm = 0#8 ∧ i = .runs) ∨ (op = 7#4 ∧ imm = 0#8 ∧ i = .geom) := by
  have hop : ∀ n, op.toNat = n → op = BitVec.ofNat 4 n := by
    rintro n rfl; simp
  unfold decodeOp noOperand at h
  split at h
  case h_9 => cases h
  all_goals (first | (split at h) | skip)
  all_goals simp_all

/-- The 48 patterns decode to their rows (40_symbol_table.md R110 (c)). -/
theorem decodeSym_rows : ∀ r ∈ symbolRows, decodeSym r.pattern = .instr r.row := by decide

/-- What nine bits decode to stands in the table. -/
theorem decodeSym_cases {p : Pattern} {i : Instr} (h : decodeSym p = .instr i) :
    ∃ r ∈ symbolRows, r.pattern = p ∧ r.row = i := by
  unfold decodeSym at h
  split at h
  · rename_i r hr
    cases h
    exact ⟨r, List.mem_of_find?_eq_some hr, by simpa using List.find?_some hr, rfl⟩
  · cases h

/-- Each row of the table carries its own ROM index and its own encoding. -/
theorem symbolRows_index : ∀ (k : Nat) (r : SymbolRow), symbolRows[k]? = some r → r.row.romIndex = some k ∧ encode r.row = .sym9 r.pattern := by
  intro k r h
  have hk : k < 48 := by
    have := (List.getElem?_eq_some_iff.mp h).1
    simpa [symbolRows, digitRows, letterRowsAtoM, letterRowsNtoZ, punctuationRows, checkRows, sentinelRows] using this
  have all : ∀ k : Fin 48, ∀ r : SymbolRow, symbolRows[(k : Nat)]? = some r → r.row.romIndex = some (k : Nat) ∧ encode r.row = .sym9 r.pattern := by
    intro k
    fin_cases k <;> (intro r hr; cases hr; exact ⟨rfl, rfl⟩)
  exact all ⟨k, hk⟩ r h

/-- Each symbol row of Instr stands in the table at its ROM index. -/
theorem romIndex_row {i : Instr} {k : Nat} (h : i.romIndex = some k) :
    k ≤ 47 ∧ ∃ r, symbolRows[k]? = some r ∧ r.row = i := by
  cases i <;> (first | (cases h; exact ⟨by decide, _, rfl, rfl⟩) | cases h)

end Sys2Proof
end

