-- ==== Sys2Proof/Laws/Ops.lean ====
section
/-! SUPPORT. What the shared operations do, said once: the ends of a command, the text buffer and the capacities. -/

namespace Sys2Proof.Machine

/-! ## Ending a command -/

theorem respondOk_next (s : State) : respondOk s = .next { s with err := .ok, resp := some (.cmd .ok) } := rfl

theorem respondOk_eq_next {s t : State} (h : respondOk s = .next t) : t = finish .ok s := by
  cases h; rfl

theorem raise_eq_next {e : CmdResult} {s t : State} (h : raise e s = .next t) : t = finish e (errorFlags e s) := by
  cases h; rfl

theorem raise_next (e : CmdResult) (s : State) :
    raise e s = .next { errorFlags e s with err := e, resp := some (.cmd e) } := rfl

/-! ## Error entry touches no text, no configuration, no parameter and no queue (60_exceptions.md R205) -/

@[simp] theorem errorFlags_cfg (e : CmdResult) (s : State) : (errorFlags e s).cfg = s.cfg := by cases e <;> rfl
@[simp] theorem errorFlags_txt (e : CmdResult) (s : State) : (errorFlags e s).txt = s.txt := by cases e <;> rfl
@[simp] theorem errorFlags_width (e : CmdResult) (s : State) : (errorFlags e s).width = s.width := by cases e <;> rfl
@[simp] theorem errorFlags_height (e : CmdResult) (s : State) : (errorFlags e s).height = s.height := by cases e <;> rfl
@[simp] theorem errorFlags_padding (e : CmdResult) (s : State) : (errorFlags e s).padding = s.padding := by cases e <;> rfl
@[simp] theorem errorFlags_fillColor (e : CmdResult) (s : State) : (errorFlags e s).fillColor = s.fillColor := by
  cases e <;> rfl
@[simp] theorem errorFlags_bgColor (e : CmdResult) (s : State) : (errorFlags e s).bgColor = s.bgColor := by cases e <;> rfl
@[simp] theorem errorFlags_input (e : CmdResult) (s : State) : (errorFlags e s).input = s.input := by cases e <;> rfl

/-- An error only takes results away. -/
theorem errorFlags_lookup (e : CmdResult) (s : State) :
    (errorFlags e s).lookup = s.lookup ∨ (errorFlags e s).lookup = none := by cases e <;> simp [errorFlags]

theorem errorFlags_enc (e : CmdResult) (s : State) : (errorFlags e s).enc = s.enc ∨
    ((errorFlags e s).enc = none ∧ (errorFlags e s).runs = none ∧ (errorFlags e s).geo = none) := by
  cases e <;> simp [errorFlags]

theorem errorFlags_runs (e : CmdResult) (s : State) : (errorFlags e s).runs = s.runs ∨
    ((errorFlags e s).runs = none ∧ (errorFlags e s).geo = none) := by cases e <;> simp [errorFlags]

theorem errorFlags_geo (e : CmdResult) (s : State) :
    (errorFlags e s).geo = s.geo ∨ (errorFlags e s).geo = none := by cases e <;> simp [errorFlags]

/-! ## The text buffer -/

theorem textFull_eq_true {s : State} : textFull s = true ↔ ∃ n, s.cfg.textMax = some n ∧ n ≤ s.txt.length := by
  simp only [textFull, textCapacity, capacity]
  cases s.cfg.textMax <;> simp

theorem textFull_eq_false {s : State} : textFull s = false ↔ ∀ n, s.cfg.textMax = some n → s.txt.length < n := by
  rw [← Bool.not_eq_true, textFull_eq_true]
  simp

end Sys2Proof.Machine
end

