-- ==== Sys2Proof/Laws/Commands.lean ====
section
/-! SUPPORT. Everything each command, each transaction and one step can do, said once as inversion lemmas. -/

namespace Sys2Proof.Machine

/-! ## The commands -/

theorem execClr_cases {s t : State} (h : execClr s = .next t) :
    t = finish .ok (emptyText (clearLookup (clearResults s))) := respondOk_eq_next h

theorem execPush_cases {cc : Imm8} {s t : State} (h : execPush cc s = .next t) :
    (textFull s = true ∧ t = finish .textOverflow s) ∨
      (textFull s = false ∧ t = finish .ok (clearResults (appendChar cc s))) := by
  unfold execPush at h
  split at h
  · exact .inl ⟨‹_›, raise_eq_next h⟩
  · exact .inr ⟨by simpa using ‹¬ textFull s = true›, respondOk_eq_next h⟩

theorem execLuc_cases {cc : Imm8} {s t : State} (h : execLuc cc s = .next t) :
    (lookupChar cc = none ∧ t = finish (.unknownSymbol cc 0) (clearLookup s)) ∨
      ∃ y, lookupChar cc = some y ∧ t = finish .ok (writeLookup y s) := by
  unfold execLuc at h
  split at h
  · exact .inr ⟨_, ‹_›, respondOk_eq_next h⟩
  · exact .inl ⟨‹_›, raise_eq_next h⟩

theorem execLuv_cases {vv : Imm8} {s t : State} (h : execLuv vv s = .next t) :
    (46 < vv.toNat ∧ t = finish .illegalOperand (clearLookup s)) ∨
      (vv.toNat ≤ 46 ∧ t = finish .ok (writeLookup (symbolAt vv.toNat) s)) := by
  unfold execLuv valueOperand at h
  split at h
  · rename_i v hv
    split at hv
    · cases hv; exact .inr ⟨‹_›, respondOk_eq_next h⟩
    · cases hv
  · rename_i hv
    split at hv
    · cases hv
    · exact .inl ⟨by omega, raise_eq_next h⟩

theorem execCsum_cases {mm : Imm8} {s t : State} (h : execCsum mm s = .next t) :
    (mm.toNat = 0 ∧ t = finish .illegalOperand (clearLookup s)) ∨
      (1 ≤ mm.toNat ∧ ∃ c p, firstFailure isValued s.txt = some (c, p) ∧
        t = finish (.unknownSymbol c p) (clearLookup s)) ∨
      (1 ≤ mm.toNat ∧ firstFailure isValued s.txt = none ∧
        t = finish .ok (writeLookup (symbolAt (checksum (valuesOf s.txt) mm.toNat)) s)) := by
  unfold execCsum weightOperand at h
  by_cases hm : 1 ≤ mm.toNat
  · simp only [hm, if_true, sumText] at h
    split at h
    · exact .inr (.inl ⟨hm, _, _, ‹_›, raise_eq_next h⟩)
    · exact .inr (.inr ⟨hm, ‹_›, respondOk_eq_next h⟩)
  · simp only [hm, if_false] at h
    exact .inl ⟨by omega, raise_eq_next h⟩

/-- How `encode(text)` can fail. -/
theorem encodeText_error {text : List Code} {e : CmdResult} (h : encodeText text = .error e) :
    (text = [] ∧ e = .emptyInput) ∨ ∃ c p, firstFailure isUser text = some (c, p) ∧ e = .invalidCharacter c p := by
  unfold encodeText at h
  split at h
  · cases h; exact .inl ⟨rfl, rfl⟩
  · split at h
    · cases h; exact .inr ⟨_, _, ‹_›, rfl⟩
    · cases h

/-- When `encode(text)` succeeds, and with what. -/
theorem encodeText_ok {text : List Code} {e : Encoded} (h : encodeText text = .ok e) :
    text ≠ [] ∧ firstFailure isUser text = none ∧ e = encodeValues (valuesOf text) := by
  unfold encodeText at h
  split at h
  · cases h
  · split at h
    · cases h
    · cases h; exact ⟨by simp, ‹_›, rfl⟩

theorem encodeText_of_user {text : List Code} (h : text ≠ []) (hu : firstFailure isUser text = none) :
    encodeText text = .ok (encodeValues (valuesOf text)) := by
  cases text with
  | nil => exact absurd rfl h
  | cons c rest => simp [encodeText, hu]

theorem execEnc_cases {s t : State} (h : execEnc s = .next t) :
    (∃ e, encodeText s.txt = .ok e ∧ t = finish .ok (writeEncoded e s)) ∨
      (s.txt = [] ∧ t = finish .emptyInput (clearResults s)) ∨
      ∃ c p, firstFailure isUser s.txt = some (c, p) ∧ t = finish (.invalidCharacter c p) (clearResults s) := by
  unfold execEnc at h
  split at h
  · exact .inl ⟨_, ‹_›, respondOk_eq_next h⟩
  · rename_i e he
    have ht := raise_eq_next h
    rcases encodeText_error he with ⟨h0, rfl⟩ | ⟨c, p, hf, rfl⟩
    · exact .inr (.inl ⟨h0, ht⟩)
    · exact .inr (.inr ⟨c, p, hf, ht⟩)

/-- `ENC` always completes. -/
theorem execEnc_completes (s : State) : ∃ t, execEnc s = .next t := by
  unfold execEnc
  split <;> exact ⟨_, rfl⟩

theorem execRuns_cases {s t : State} (h : execRuns s = .next t) :
    (s.enc = none ∧ t = finish .notReady s) ∨
      ∃ e, s.enc = some e ∧ e.bits ≠ [] ∧ t = finish .ok (writeRuns (runsOf e.bits) s) := by
  unfold execRuns at h
  split at h
  · exact .inl ⟨‹_›, raise_eq_next h⟩
  · split at h
    · cases h
    · exact .inr ⟨_, ‹_›, ‹_›, respondOk_eq_next h⟩

theorem execGeom_cases {s t : State} (h : execGeom s = .next t) :
    (s.runs = none ∧ t = finish .notReady s) ∨
      (∃ rs, s.runs = some rs ∧ legalRequest (numDomain s.cfg.num) s.width s.height s.padding = false ∧
        t = finish .invalidGeometryRequest (clearGeometry s)) ∨
      ∃ rs, s.runs = some rs ∧ legalRequest (numDomain s.cfg.num) s.width s.height s.padding = true ∧
        totalWidth rs ≠ 0 ∧ t = finish .ok (writeGeometry (geometryOf rs s) s) := by
  unfold execGeom at h
  split at h
  · exact .inl ⟨‹_›, raise_eq_next h⟩
  · rename_i rs hrs
    split at h
    · rename_i hl
      split at h
      · cases h
      · exact .inr (.inr ⟨rs, hrs, hl, ‹_›, respondOk_eq_next h⟩)
    · rename_i hl
      exact .inr (.inl ⟨rs, hrs, by simpa using hl, raise_eq_next h⟩)

/-- A symbol row is the read of its ROM element. -/
theorem exec_symbolRow {i : Instr} {k : Nat} (h : i.romIndex = some k) (s : State) :
    exec i s = .next (busRead symromSpace k s) := by
  cases i <;> cases h <;> rfl

/-! ## The bus -/

theorem busRead_eq (space index : Nat) (s : State) :
    busRead space index s = { s with resp := some (readSpace space index s) } := rfl

/-- A register write that is taken. -/
theorem writeReg_cases {index : Nat} {v : Value} {s t : State} (h : writeReg index v s = some t) :
    (index = 16 ∧ ∃ x, v = .num x ∧ isNum s.cfg.num x = true ∧ t = { s with width := x, geo := none }) ∨
    (index = 17 ∧ ∃ x, v = .num x ∧ isNum s.cfg.num x = true ∧ t = { s with height := x, geo := none }) ∨
    (index = 18 ∧ ∃ x, v = .num x ∧ isNum s.cfg.num x = true ∧ t = { s with padding := x, geo := none }) ∨
    (index = 19 ∧ ∃ c, v = .colour c ∧ isColour s.cfg.colour c = true ∧ t = { s with fillColor := c, geo := none }) ∨
    (index = 20 ∧ ∃ c, v = .bgColour c ∧ c.all (isColour s.cfg.colour) = true ∧ t = { s with bgColor := c, geo := none }) := by
  unfold writeReg clearGeometry at h
  split at h
  case h_1 x =>
    split at h <;> cases h
    exact .inl ⟨rfl, x, rfl, ‹_›, rfl⟩
  case h_2 x =>
    split at h <;> cases h
    exact .inr (.inl ⟨rfl, x, rfl, ‹_›, rfl⟩)
  case h_3 x =>
    split at h <;> cases h
    exact .inr (.inr (.inl ⟨rfl, x, rfl, ‹_›, rfl⟩))
  case h_4 c =>
    split at h <;> cases h
    exact .inr (.inr (.inr (.inl ⟨rfl, c, rfl, ‹_›, rfl⟩)))
  case h_5 c =>
    split at h <;> cases h
    exact .inr (.inr (.inr (.inr ⟨rfl, c, rfl, ‹_›, rfl⟩)))
  case h_6 => cases h

/-- What a `WR` can do: one configuration register takes a value of its type, or nothing is written. -/
theorem busWrite_cases (space index : Nat) (v : Value) (s : State) :
    (space = 0 ∧ index = 16 ∧ ∃ x, v = .num x ∧ isNum s.cfg.num x = true ∧
      busWrite space index v s = { s with width := x, geo := none, resp := some .wrOk }) ∨
    (space = 0 ∧ index = 17 ∧ ∃ x, v = .num x ∧ isNum s.cfg.num x = true ∧
      busWrite space index v s = { s with height := x, geo := none, resp := some .wrOk }) ∨
    (space = 0 ∧ index = 18 ∧ ∃ x, v = .num x ∧ isNum s.cfg.num x = true ∧
      busWrite space index v s = { s with padding := x, geo := none, resp := some .wrOk }) ∨
    (space = 0 ∧ index = 19 ∧ ∃ c, v = .colour c ∧ isColour s.cfg.colour c = true ∧
      busWrite space index v s = { s with fillColor := c, geo := none, resp := some .wrOk }) ∨
    (space = 0 ∧ index = 20 ∧ ∃ c, v = .bgColour c ∧ c.all (isColour s.cfg.colour) = true ∧
      busWrite space index v s = { s with bgColor := c, geo := none, resp := some .wrOk }) ∨
    busWrite space index v s = { s with resp := some .badAddress } := by
  unfold busWrite
  split
  · rename_i t ht
    split at ht
    · rename_i hs
      change space = 0 at hs
      rcases writeReg_cases ht with ⟨hi, x, hv, hx, rfl⟩ | ⟨hi, x, hv, hx, rfl⟩ | ⟨hi, x, hv, hx, rfl⟩ | ⟨hi, c, hv, hc, rfl⟩ |
        ⟨hi, c, hv, hc, rfl⟩
      · exact .inl ⟨hs, hi, x, hv, hx, rfl⟩
      · exact .inr (.inl ⟨hs, hi, x, hv, hx, rfl⟩)
      · exact .inr (.inr (.inl ⟨hs, hi, x, hv, hx, rfl⟩))
      · exact .inr (.inr (.inr (.inl ⟨hs, hi, c, hv, hc, rfl⟩)))
      · exact .inr (.inr (.inr (.inr (.inl ⟨hs, hi, c, hv, hc, rfl⟩))))
    · cases ht
  · exact .inr (.inr (.inr (.inr (.inr rfl))))

/-! ## One transaction -/

/-- The commands that reach the block by a word. -/
inductive IsCommand : Instr → Prop
  | clr : IsCommand .clr
  | push (c : Imm8) : IsCommand (.push c)
  | luc (c : Imm8) : IsCommand (.luc c)
  | luv (v : Imm8) : IsCommand (.luv v)
  | csum (m : Imm8) : IsCommand (.csum m)
  | enc : IsCommand .enc
  | runs : IsCommand .runs
  | geom : IsCommand .geom

theorem isCommand_of_decodeCmd {w : CmdWord} {i : Instr} (h : decodeCmd w = .instr i) : IsCommand i := by
  obtain ⟨_, h⟩ := decodeCmd_cases h
  rcases decodeOp_cases h with ⟨_, _, rfl⟩ | ⟨_, rfl⟩ | ⟨_, rfl⟩ | ⟨_, rfl⟩ | ⟨_, rfl⟩ | ⟨_, _, rfl⟩ | ⟨_, _, rfl⟩ | ⟨_, _, rfl⟩ <;>
    constructor

theorem serveCmd_cases {w : CmdWord} {s t : State} (h : serveCmd w s = .next t) :
    (∃ i, decodeCmd w = .instr i ∧ IsCommand i ∧ exec i s = .next t) ∨
      ∃ why, decodeCmd w = .illegal why ∧ t = finish .illegalCommand s := by
  unfold serveCmd at h
  split at h
  · exact .inl ⟨_, ‹_›, isCommand_of_decodeCmd ‹_›, h⟩
  · exact .inr ⟨_, ‹_›, raise_eq_next h⟩

/-- A step with a waiting event serves it. -/
theorem step_cons (s : State) (e : Event) (rest : List Event) :
    step { s with input := e :: rest } = serve e { s with input := rest } := rfl

theorem step_nil {s : State} (h : s.input = []) : step s = .next s := by
  simp [step, serveNext, h]

/-- A step that goes on is idle or has served the oldest event. -/
theorem step_cases {s t : State} (h : step s = .next t) :
    (s.input = [] ∧ t = s) ∨ ∃ e rest, s.input = e :: rest ∧ serve e { s with input := rest } = .next t := by
  unfold step serveNext at h
  split at h
  · cases h; exact .inl ⟨‹_›, rfl⟩
  · exact .inr ⟨_, _, ‹_›, h⟩

end Sys2Proof.Machine
end

