-- ==== Sys2Proof/Laws/Number.lean ====
section
/-! SUPPORT. The number domains of one block: which operations each format has, and which values are its own. -/

namespace Sys2Proof.Machine

/-! ## The operations of each format -/

@[simp] theorem numDomain_exact : numDomain .exact = exactDomain := rfl
@[simp] theorem numDomain_binary64 : numDomain .binary64 = binary64Domain := rfl
@[simp] theorem numDomain_fixedPoint (f : Nat) : numDomain (.fixedPoint f) = fixedPointDomain f := rfl
@[simp] theorem numDomain_other (id : Nat) (last : Option Nat) : numDomain (.other id last) = otherDomain id last := rfl

@[simp] theorem liftRat_rat (f : ℚ → ℚ → ℚ) (a b : ℚ) : liftRat f (.rat a) (.rat b) = .rat (f a b) := rfl
@[simp] theorem liftToken_token (last : Option Nat) (f : Nat → Nat → Nat) (a b : Nat) :
    liftToken last f (.token a) (.token b) = tokenOf last (f a b) := rfl
@[simp] theorem posRat_rat (q : ℚ) : posRat (.rat q) = decide (0 < q) := rfl
@[simp] theorem finRat_rat (q : ℚ) : finRat (.rat q) = true := rfl

/-! ## The values of each format -/

@[simp] theorem isNum_exact_rat (q : ℚ) : isNum .exact (.rat q) = true := rfl

theorem isNum_exact {x : Number} : isNum .exact x = true ↔ ∃ q, x = .rat q := by cases x <;> simp [isNum, isRat]

theorem isNum_fixedPoint {f : Nat} {x : Number} : isNum (.fixedPoint f) x = true ↔ ∃ q, x = .rat q ∧ roundDown f q = q := by
  cases x <;> simp [isNum, isRat]

/-- A natural is a value of every fixed-point format. -/
theorem roundDown_natCast (f n : Nat) : roundDown f n = n := by
  unfold roundDown
  have h : ((n : ℚ) * ((2 ^ f : Nat) : ℚ)) = ((n * 2 ^ f : Int) : ℚ) := by push_cast; rfl
  rw [h, Rat.floor_intCast, Rat.mkRat_eq_div]
  push_cast
  field_simp

/-- What an `other` domain computes is a value of it. -/
theorem isNum_tokenOf (id : Nat) (last : Option Nat) (n : Nat) : isNum (.other id last) (tokenOf last n) = true := by
  cases last with
  | none => rfl
  | some m => simpa [isNum, isToken, tokenOf] using Nat.lt_succ_iff.mp (Nat.mod_lt n (Nat.succ_pos m))

/-- The values of table R29-T belong to every format. -/
theorem isNum_resetValues (fmt : NumFormat) :
    isNum fmt ((numDomain fmt).ofNat 200) = true ∧ isNum fmt ((numDomain fmt).ofNat 50) = true ∧
      isNum fmt ((numDomain fmt).ofNat 0) = true := by
  cases fmt with
  | exact => exact ⟨rfl, rfl, rfl⟩
  | binary64 => decide +kernel
  | fixedPoint f =>
    exact ⟨isNum_fixedPoint.mpr ⟨_, rfl, roundDown_natCast f 200⟩, isNum_fixedPoint.mpr ⟨_, rfl, roundDown_natCast f 50⟩,
      isNum_fixedPoint.mpr ⟨_, rfl, roundDown_natCast f 0⟩⟩
  | other id last => exact ⟨isNum_tokenOf id last _, isNum_tokenOf id last _, isNum_tokenOf id last _⟩

/-! ## Colours -/

/-- The one constraint on `COLOUR` (00_scope.md R6): it has the default token. -/
@[simp] theorem isColour_default (fmt : ColourFormat) : isColour fmt (.text "#000") = true := by cases fmt <;> rfl

end Sys2Proof.Machine
end

