-- ==== Sys2Proof/Laws/PerInstr.lean ====
section
/-! SUPPORT. Statements about every instruction as syntax, one lemma per constructor. -/

namespace Sys2Proof.Laws.WordFields

/-- 30_encoding.md R60 and 40_symbol_table.md R110 (a): a command's word has a zero `rsv` and an opcode below 8; a symbol row's nine
bits begin with 1 and end with 0. -/
def Statement (i : Instr) : Prop :=
  match encode i with
  | .cmd16 w => rsvField w = 0#4 ∧ (opField w).toNat < 8
  | .sym9 p => p.getLsbD 8 = true ∧ p.getLsbD 0 = false

theorem clr : Statement .clr := by simp [Statement, encode]
theorem push (imm : Imm8) : Statement (.push imm) := by simp [Statement, encode]
theorem luc (imm : Imm8) : Statement (.luc imm) := by simp [Statement, encode]
theorem luv (imm : Imm8) : Statement (.luv imm) := by simp [Statement, encode]
theorem csum (imm : Imm8) : Statement (.csum imm) := by simp [Statement, encode]
theorem enc : Statement .enc := by simp [Statement, encode]
theorem runs : Statement .runs := by simp [Statement, encode]
theorem geom : Statement .geom := by simp [Statement, encode]
theorem sym0 : Statement .sym0 := ⟨rfl, rfl⟩
theorem sym1 : Statement .sym1 := ⟨rfl, rfl⟩
theorem sym2 : Statement .sym2 := ⟨rfl, rfl⟩
theorem sym3 : Statement .sym3 := ⟨rfl, rfl⟩
theorem sym4 : Statement .sym4 := ⟨rfl, rfl⟩
theorem sym5 : Statement .sym5 := ⟨rfl, rfl⟩
theorem sym6 : Statement .sym6 := ⟨rfl, rfl⟩
theorem sym7 : Statement .sym7 := ⟨rfl, rfl⟩
theorem sym8 : Statement .sym8 := ⟨rfl, rfl⟩
theorem sym9 : Statement .sym9 := ⟨rfl, rfl⟩
theorem symA : Statement .symA := ⟨rfl, rfl⟩
theorem symB : Statement .symB := ⟨rfl, rfl⟩
theorem symC : Statement .symC := ⟨rfl, rfl⟩
theorem symD : Statement .symD := ⟨rfl, rfl⟩
theorem symE : Statement .symE := ⟨rfl, rfl⟩
theorem symF : Statement .symF := ⟨rfl, rfl⟩
theorem symG : Statement .symG := ⟨rfl, rfl⟩
theorem symH : Statement .symH := ⟨rfl, rfl⟩
theorem symI : Statement .symI := ⟨rfl, rfl⟩
theorem symJ : Statement .symJ := ⟨rfl, rfl⟩
theorem symK : Statement .symK := ⟨rfl, rfl⟩
theorem symL : Statement .symL := ⟨rfl, rfl⟩
theorem symM : Statement .symM := ⟨rfl, rfl⟩
theorem symN : Statement .symN := ⟨rfl, rfl⟩
theorem symO : Statement .symO := ⟨rfl, rfl⟩
theorem symP : Statement .symP := ⟨rfl, rfl⟩
theorem symQ : Statement .symQ := ⟨rfl, rfl⟩
theorem symR : Statement .symR := ⟨rfl, rfl⟩
theorem symS : Statement .symS := ⟨rfl, rfl⟩
theorem symT : Statement .symT := ⟨rfl, rfl⟩
theorem symU : Statement .symU := ⟨rfl, rfl⟩
theorem symV : Statement .symV := ⟨rfl, rfl⟩
theorem symW : Statement .symW := ⟨rfl, rfl⟩
theorem symX : Statement .symX := ⟨rfl, rfl⟩
theorem symY : Statement .symY := ⟨rfl, rfl⟩
theorem symZ : Statement .symZ := ⟨rfl, rfl⟩
theorem symMinus : Statement .symMinus := ⟨rfl, rfl⟩
theorem symDot : Statement .symDot := ⟨rfl, rfl⟩
theorem symSpace : Statement .symSpace := ⟨rfl, rfl⟩
theorem symDollar : Statement .symDollar := ⟨rfl, rfl⟩
theorem symSlash : Statement .symSlash := ⟨rfl, rfl⟩
theorem symPlus : Statement .symPlus := ⟨rfl, rfl⟩
theorem symPercent : Statement .symPercent := ⟨rfl, rfl⟩
theorem symCheckDollar : Statement .symCheckDollar := ⟨rfl, rfl⟩
theorem symCheckPercent : Statement .symCheckPercent := ⟨rfl, rfl⟩
theorem symCheckSlash : Statement .symCheckSlash := ⟨rfl, rfl⟩
theorem symCheckPlus : Statement .symCheckPlus := ⟨rfl, rfl⟩
theorem symSentinel : Statement .symSentinel := ⟨rfl, rfl⟩

end Sys2Proof.Laws.WordFields
end

