-- ==== Sys2Proof/Laws/Rom.lean ====
section
/-! SUPPORT. The ROMs, the lookups by code and by value, and the scan for the first failure. -/

namespace Sys2Proof.Machine

/-! ## The ROMs -/

theorem symbolRows_length : symbolRows.length = 48 := by decide

theorem valuedCodes_length : valuedCodes.length = 47 := by decide

/-- The 47 codes of the valued symbols are pairwise distinct (40_symbol_table.md R100). -/
theorem valuedCodes_nodup : valuedCodes.Nodup := by decide

theorem valuedCodes_getElem? {v : Nat} (h : v ≤ 46) : valuedCodes[v]? = chrrom v := by
  simp [valuedCodes, chrrom, show v < 47 by omega]

theorem symrom_isSome {i : Nat} (h : i ≤ 47) : ∃ p, symrom i = some p := by
  have : i < symbolRows.length := by rw [symbolRows_length]; omega
  exact ⟨symbolRows[i].pattern, by simp [symrom, List.getElem?_eq_getElem this]⟩

theorem chrrom_isSome {i : Nat} (h : i ≤ 47) : ∃ c, chrrom i = some c := by
  have : i < symbolRows.length := by rw [symbolRows_length]; omega
  exact ⟨symbolRows[i].code, by simp [chrrom, List.getElem?_eq_getElem this]⟩

theorem symrom_eq_none {i : Nat} (h : 48 ≤ i) : symrom i = none := by
  simp [symrom, List.getElem?_eq_none (show symbolRows.length ≤ i by rw [symbolRows_length]; omega)]

theorem chrrom_eq_none {i : Nat} (h : 48 ≤ i) : chrrom i = none := by
  simp [chrrom, List.getElem?_eq_none (show symbolRows.length ≤ i by rw [symbolRows_length]; omega)]

theorem romPattern_eq {i : Nat} {p : Pattern} (h : symrom i = some p) : romPattern i = p := by simp [romPattern, h]

theorem symrom_romPattern {i : Nat} (h : i ≤ 47) : symrom i = some (romPattern i) := by
  obtain ⟨p, hp⟩ := symrom_isSome h
  rw [hp, romPattern_eq hp]

/-- What holds of each of the 48 patterns holds of the pattern at every ROM index. -/
theorem romPattern_forall {P : Pattern → Prop} (h : ∀ r ∈ symbolRows, P r.pattern) {i : Nat} (hi : i ≤ 47) :
    P (romPattern i) := by
  have hl : i < symbolRows.length := by rw [symbolRows_length]; omega
  have : romPattern i = (symbolRows[i]'hl).pattern := by simp [romPattern, symrom, List.getElem?_eq_getElem hl]
  rw [this]
  exact h _ (List.getElem_mem hl)

/-! ## Lookups -/

/-- `valueOf(c)` is the one value whose code is `c` (30_encoding.md R62). -/
theorem valueOf_eq_some {c : Code} {v : Nat} : valueOf c = some v ↔ v ≤ 46 ∧ chrrom v = some c := by
  unfold valueOf
  rw [List.findIdx?_eq_some_iff_getElem]
  constructor
  · rintro ⟨hv, hc, -⟩
    have h46 : v ≤ 46 := by rw [valuedCodes_length] at hv; omega
    refine ⟨h46, ?_⟩
    rw [← valuedCodes_getElem? h46, List.getElem?_eq_getElem hv]
    simpa using hc
  · rintro ⟨h46, hc⟩
    have hv : v < valuedCodes.length := by rw [valuedCodes_length]; omega
    rw [← valuedCodes_getElem? h46, List.getElem?_eq_getElem hv] at hc
    refine ⟨hv, by simpa using hc, fun j hj hjc => ?_⟩
    have hj' : valuedCodes[j]'(hj.trans hv) = valuedCodes[v]'hv := by
      rw [Option.some.inj hc]; simpa using hjc
    exact absurd ((valuedCodes_nodup.getElem_inj_iff).mp hj') (by omega)

theorem isValued_iff {c : Code} : isValued c = true ↔ ∃ v, v ≤ 46 ∧ chrrom v = some c := by
  simp [isValued, Option.isSome_iff_exists, valueOf_eq_some]

theorem isUser_iff {c : Code} : isUser c = true ↔ ∃ v, v ≤ 42 ∧ chrrom v = some c := by
  simp only [isUser, Option.any_eq_true, valueOf_eq_some, decide_eq_true_eq]
  constructor
  · rintro ⟨v, ⟨-, hc⟩, h⟩; exact ⟨v, h, hc⟩
  · rintro ⟨v, h, hc⟩; exact ⟨v, ⟨by omega, hc⟩, h⟩

/-- The symbol of a value, from its two ROM elements. -/
theorem symbolAt_eq {v : Nat} {c : Code} {p : Pattern} (hc : chrrom v = some c) (hp : symrom v = some p) :
    symbolAt v = { val := BitVec.ofNat 6 v, chr := c, pat := p } := by
  simp [symbolAt, hc, romPattern_eq hp]

theorem symbolAt_val {v : Nat} (h : v ≤ 46) : (symbolAt v).val.toNat = v := by
  simp only [symbolAt, BitVec.toNat_ofNat]
  omega

/-- `lookupChar(c)` gives the symbol whose code is `c`, or nothing (40_symbol_table.md R108). -/
theorem lookupChar_eq_some {c : Code} {y : Symbol} :
    lookupChar c = some y ↔ ∃ v, v ≤ 46 ∧ chrrom v = some c ∧ y = symbolAt v := by
  simp only [lookupChar, Option.bind_eq_some_iff, valueOf_eq_some, lookupValue]
  constructor
  · rintro ⟨v, ⟨hv, hc⟩, h⟩
    rw [if_pos hv] at h
    cases h
    exact ⟨v, hv, hc, rfl⟩
  · rintro ⟨v, hv, hc, rfl⟩
    exact ⟨v, ⟨hv, hc⟩, if_pos hv⟩

theorem lookupChar_eq_none {c : Code} : lookupChar c = none ↔ ∀ v, ¬ (v ≤ 46 ∧ chrrom v = some c) := by
  rw [← Option.not_isSome_iff_eq_none, Option.isSome_iff_exists]
  simp only [lookupChar_eq_some, not_exists, not_and]
  constructor
  · intro h v hv hc; exact h _ v hv hc rfl
  · rintro h y v hv hc -; exact h v hv hc

/-- The values of a text each of whose codes has one. -/
theorem valuesOf_of_forall₂ {text : List Code} {values : List Nat}
    (h : List.Forall₂ (fun c v => v ≤ 46 ∧ chrrom v = some c) text values) : valuesOf text = values := by
  induction h with
  | nil => rfl
  | cons h _ ih =>
    unfold valuesOf at ih ⊢
    rw [List.filterMap_cons, valueOf_eq_some.mpr h, ih]

/-- A text without a failure has a value for every code. -/
theorem forall₂_valuesOf {text : List Code} (h : ∀ c ∈ text, isValued c = true) :
    List.Forall₂ (fun c v => v ≤ 46 ∧ chrrom v = some c) text (valuesOf text) := by
  induction text with
  | nil => exact .nil
  | cons c rest ih =>
    obtain ⟨v, hv⟩ := isValued_iff.mp (h c (by simp))
    have := ih (fun d hd => h d (by simp [hd]))
    unfold valuesOf at this ⊢
    rw [List.filterMap_cons, valueOf_eq_some.mpr hv]
    exact .cons hv this

theorem isValued_of_isUser {c : Code} (h : isUser c = true) : isValued c = true := by
  obtain ⟨v, hv, hc⟩ := isUser_iff.mp h
  exact isValued_iff.mpr ⟨v, by omega, hc⟩

/-! ## The first failure -/

/-- Nothing fails exactly when every code passes. -/
theorem firstFailure_eq_none {test : Code → Bool} {text : List Code} :
    firstFailure test text = none ↔ ∀ c ∈ text, test c = true := by
  simp only [firstFailure, List.find?_eq_none]
  constructor
  · intro h c hc
    obtain ⟨i, hi, rfl⟩ := List.mem_iff_getElem.mp hc
    have := h (text[i], i) (by simp [List.mem_zipIdx_iff_getElem?])
    simpa using this
  · rintro h ⟨c, i⟩ hm
    have := List.mem_zipIdx_iff_getElem?.mp hm
    simp [h c (List.mem_of_getElem? this)]

/-- The failure reported is the one at the lowest position. -/
theorem firstFailure_eq_some {test : Code → Bool} {text : List Code} {c : Code} {p : Nat} :
    firstFailure test text = some (c, p) ↔
      text[p]? = some c ∧ test c = false ∧ ∀ (q : Nat) (d : Code), q < p → text[q]? = some d → test d = true := by
  simp only [firstFailure, List.find?_eq_some_iff_getElem]
  constructor
  · rintro ⟨hc, i, hi, he, hb⟩
    simp only [List.getElem_zipIdx, Nat.zero_add, Prod.mk.injEq] at he
    obtain ⟨rfl, rfl⟩ := he
    refine ⟨List.getElem?_eq_getElem (by simpa using hi), by simpa using hc, fun q d hq hd => ?_⟩
    have hql : q < text.length := (List.getElem?_eq_some_iff.mp hd).1
    have := hb q hq
    rw [List.getElem_zipIdx] at this
    rw [List.getElem?_eq_getElem hql] at hd
    cases hd
    simpa using this
  · rintro ⟨hc, ht, hb⟩
    obtain ⟨hl, rfl⟩ := List.getElem?_eq_some_iff.mp hc
    refine ⟨by simp [ht], p, by simpa using hl, by simp, fun j hj => ?_⟩
    have := hb j text[j] hj (List.getElem?_eq_getElem (hj.trans hl))
    simp [this]

end Sys2Proof.Machine
end

