-- ==== Sys2Proof/Laws/RunLength.lean ====
section
/-! SUPPORT. What the scan of the run encoder keeps: the bits, their number, and a width of at least one. -/

namespace Sys2Proof.Machine

@[simp] theorem bitsOfRuns_nil : bitsOfRuns [] = [] := rfl

@[simp] theorem bitsOfRuns_cons (r : Run) (rs : List Run) :
    bitsOfRuns (r :: rs) = List.replicate r.width r.fill ++ bitsOfRuns rs := by simp [bitsOfRuns]

theorem bitsOfRuns_append (a b : List Run) : bitsOfRuns (a ++ b) = bitsOfRuns a ++ bitsOfRuns b := by
  simp [bitsOfRuns]

@[simp] theorem totalWidth_nil : totalWidth [] = 0 := rfl

@[simp] theorem totalWidth_cons (r : Run) (rs : List Run) : totalWidth (r :: rs) = r.width + totalWidth rs := by
  simp [totalWidth]

theorem totalWidth_append (a b : List Run) : totalWidth (a ++ b) = totalWidth a + totalWidth b := by simp [totalWidth]

/-- Runs cover as many modules as they imply bits. -/
theorem bitsOfRuns_length (rs : List Run) : (bitsOfRuns rs).length = totalWidth rs := by
  induction rs with
  | nil => rfl
  | cons r rs ih => simp [ih]

/-- The scan puts out the run it is in and the bits it has not read. -/
theorem bitsOfRuns_scanRuns (bits : List Bool) (r : Run) :
    bitsOfRuns (scanRuns r bits) = List.replicate r.width r.fill ++ bits := by
  induction bits generalizing r with
  | nil => simp [scanRuns]
  | cons b bits ih =>
    unfold scanRuns
    split
    · rename_i h; subst h; simp [ih, List.replicate_succ']
    · simp [ih]

/-- The first run put out is the run the scan is in, grown or not. -/
theorem scanRuns_head (bits : List Bool) (r : Run) :
    ∃ w rest, scanRuns r bits = ⟨r.fill, w⟩ :: rest ∧ r.width ≤ w := by
  induction bits generalizing r with
  | nil => exact ⟨r.width, [], rfl, le_rfl⟩
  | cons b bits ih =>
    unfold scanRuns
    split
    · obtain ⟨w, rest, h, hw⟩ := ih { r with width := r.width + 1 }
      exact ⟨w, rest, h, by simp at hw; omega⟩
    · exact ⟨r.width, _, rfl, le_rfl⟩

/-- Every run put out is at least one module wide. -/
theorem scanRuns_width_pos (bits : List Bool) (r : Run) (hr : 1 ≤ r.width) : ∀ q ∈ scanRuns r bits, 1 ≤ q.width := by
  induction bits generalizing r with
  | nil => simpa [scanRuns] using hr
  | cons b bits ih =>
    unfold scanRuns
    split
    · exact ih _ (by simp)
    · simp only [List.mem_cons, forall_eq_or_imp]
      exact ⟨hr, ih _ (by simp)⟩

theorem runsOf_width_pos (bits : List Bool) : ∀ q ∈ runsOf bits, 1 ≤ q.width := by
  cases bits with
  | nil => simp [runsOf]
  | cons b bits => exact scanRuns_width_pos bits _ (by simp)

theorem runsOf_ne_nil {bits : List Bool} (h : bits ≠ []) : runsOf bits ≠ [] := by
  cases bits with
  | nil => exact absurd rfl h
  | cons b bits =>
    obtain ⟨w, rest, e, -⟩ := scanRuns_head bits ⟨b, 1⟩
    simp [runsOf, e]

/-- The widths of the runs of a sequence sum to its length (43_run_encoder.md R153). -/
theorem totalWidth_runsOf (bits : List Bool) : totalWidth (runsOf bits) = bits.length := by
  rw [← bitsOfRuns_length]
  cases bits with
  | nil => rfl
  | cons b bits => simp [runsOf, bitsOfRuns_scanRuns]

end Sys2Proof.Machine
end

