-- ==== Sys2Proof/Laws/Safety.lean ====
section
/-! SUPPORT. What the invariant looks at, and several steps as one and the rest. -/

namespace Sys2Proof.Machine

/-- The invariant does not look at the error record, the queue or the response. -/
theorem StateInv.congr {s t : State} (h : StateInv s) (hcfg : t.cfg = s.cfg) (htxt : t.txt = s.txt)
    (hlookup : t.lookup = s.lookup) (henc : t.enc = s.enc) (hruns : t.runs = s.runs) (hgeo : t.geo = s.geo)
    (hwidth : t.width = s.width) (hheight : t.height = s.height) (hpadding : t.padding = s.padding)
    (hfill : t.fillColor = s.fillColor) (hbg : t.bgColor = s.bgColor) : StateInv t := by
  obtain ⟨h1, h2, h3, h4, h5, h6⟩ := h
  refine ⟨?_, ?_, ?_, ?_, ?_, ?_⟩
  · unfold TextFits at *; rw [hcfg, htxt]; exact h1
  · unfold LookupConsistent at *; rw [hlookup]; exact h2
  · unfold EncodingCurrent at *; rw [henc, htxt]; exact h3
  · unfold RunsCurrent at *; rw [hruns, henc]; exact h4
  · unfold GeometryCurrent geometryOf at *; rw [hgeo, hruns, hcfg, hwidth, hheight, hpadding]; exact h5
  · unfold ConfigTyped at *; rw [hcfg, hwidth, hheight, hpadding, hfill, hbg]; exact h6

/-- The first of several steps. -/
theorem run_succ {M : Host.Core} (n : Nat) {s t : M.State} (h : M.step s = .next t) : M.run (n + 1) s = M.run n t := by
  rw [Host.Core.run, h]

end Sys2Proof.Machine
end

