-- ==== Sys2Proof/Laws/Scaler.lean ====
section
/-! SUPPORT. The walk of the scaler over the runs. -/

namespace Sys2Proof.Machine

variable {α : Type}

@[simp] theorem walkRuns_nil (d : NumDomain α) (mw x : α) : walkRuns d mw x [] = [] := rfl

theorem walkRuns_cons (d : NumDomain α) (mw x : α) (r : Run) (rs : List Run) :
    walkRuns d mw x (r :: rs) =
      (if r.fill then [{ x := x, w := d.mul (d.ofNat r.width) mw }] else []) ++
        walkRuns d mw (d.add x (d.mul (d.ofNat r.width) mw)) rs := by
  rw [walkRuns]
  cases r.fill <;> rfl

/-- One rectangle for each inked run (44_geometric_scaler.md R162). -/
theorem walkRuns_length (d : NumDomain α) (mw x : α) (rs : List Run) :
    (walkRuns d mw x rs).length = rs.countP Run.fill := by
  induction rs generalizing x with
  | nil => rfl
  | cons r rs ih =>
    rw [walkRuns_cons, List.length_append, ih, List.countP_cons]
    cases r.fill <;> simp [Nat.add_comm]

/-- The x-cursor after some runs, started at `x` (R162). -/
def cursorAfter (d : NumDomain α) (mw : α) : α → List Run → α
  | x, [] => x
  | x, r :: rs => cursorAfter d mw (d.add x (d.mul (d.ofNat r.width) mw)) rs

/-- The rectangle of an inked run stands at the cursor after the runs before it. -/
theorem walkRuns_getElem? (d : NumDomain α) (mw x : α) (rs : List Run) (i : Nat) (r : Run) (h : rs[i]? = some r)
    (hf : r.fill = true) :
    (walkRuns d mw x rs)[(rs.take i).countP Run.fill]? =
      some { x := cursorAfter d mw x (rs.take i), w := d.mul (d.ofNat r.width) mw } := by
  induction rs generalizing x i with
  | nil => simp at h
  | cons q rs ih =>
    rw [walkRuns_cons]
    cases i with
    | zero =>
      simp only [List.getElem?_cons_zero, Option.some.injEq] at h
      subst h
      simp [hf, cursorAfter]
    | succ i =>
      simp only [List.getElem?_cons_succ] at h
      have := ih (d.add x (d.mul (d.ofNat q.width) mw)) i h
      rw [List.take_succ_cons, List.countP_cons]
      cases hq : q.fill
      · simpa [hq, cursorAfter] using this
      · simpa [hq, cursorAfter] using this

theorem cursorAfter_take_succ (d : NumDomain α) (mw x : α) (rs : List Run) (i : Nat) (r : Run) (h : rs[i]? = some r) :
    cursorAfter d mw x (rs.take (i + 1)) = d.add (cursorAfter d mw x (rs.take i)) (d.mul (d.ofNat r.width) mw) := by
  induction rs generalizing x i with
  | nil => simp at h
  | cons q rs ih =>
    cases i with
    | zero =>
      simp only [List.getElem?_cons_zero, Option.some.injEq] at h
      subst h
      simp [cursorAfter]
    | succ i =>
      simp only [List.getElem?_cons_succ] at h
      simpa [cursorAfter] using ih (d.add x (d.mul (d.ofNat q.width) mw)) i h

/-- In ℚ the cursor is the sum of the widths passed, scaled. -/
theorem cursorAfter_rat (mw x : ℚ) (rs : List Run) : cursorAfter ratDomain mw x rs = x + (totalWidth rs : ℚ) * mw := by
  induction rs generalizing x with
  | nil => simp [cursorAfter]
  | cons r rs ih =>
    rw [cursorAfter, ih]
    simp only [ratDomain, totalWidth_cons, Nat.cast_add]
    ring

end Sys2Proof.Machine
end

