-- ==== Sys2Proof/Laws/Text.lean ====
section
/-! SUPPORT. The bound of the checksum and the slots of the module sequence. -/

namespace Sys2Proof.Machine

/-- The result of a checksum is a remainder modulo 47 (41_checksum.md R122). -/
theorem checksum_le (values : List Nat) (maxWeight : Nat) : checksum values maxWeight ≤ 46 := by
  have := Nat.mod_lt (weightedSum maxWeight 0 values.reverse) (show 0 < 47 by decide)
  unfold checksum
  omega

theorem checkC_le (values : List Nat) : checkC values ≤ 46 := checksum_le values 20

theorem checkK_le (values : List Nat) : checkK values ≤ 46 := checksum_le _ 15

theorem modulesOf_length (p : Pattern) : (modulesOf p).length = 9 := rfl

/-- Module `j` of a pattern is its bit `8 - j` (30_encoding.md R64). -/
theorem modulesOf_getElem? (p : Pattern) {j : Nat} (hj : j ≤ 8) : (modulesOf p)[j]? = some (p.getLsbD (8 - j)) := by
  interval_cases j <;> rfl

theorem slots_length (values : List Nat) : (slots values).length = values.length + 4 := by simp [slots]

/-- Every slot holds a ROM index. -/
theorem slots_le {values : List Nat} (h : ∀ v ∈ values, v ≤ 46) : ∀ i ∈ slots values, i ≤ 47 := by
  intro i hi
  have hC := checkC_le values
  have hK := checkK_le values
  simp only [slots, List.cons_append, List.mem_cons, List.mem_append, List.not_mem_nil, or_false] at hi
  rcases hi with rfl | hi | rfl | rfl | rfl
  · decide
  · have := h i hi; omega
  · omega
  · omega
  · decide

/-- Blocks of nine, joined: element `9 * slot + j` is element `j` of block `slot`. -/
theorem flatMap_getElem?_of_nine {f : Nat → List Bool} (hf : ∀ i, (f i).length = 9) (is : List Nat) (tail : List Bool)
    {slot j i : Nat} (hj : j ≤ 8) (hs : is[slot]? = some i) : (is.flatMap f ++ tail)[9 * slot + j]? = (f i)[j]? := by
  induction is generalizing slot with
  | nil => simp at hs
  | cons a is ih =>
    cases slot with
    | zero =>
      simp only [List.getElem?_cons_zero, Option.some.injEq] at hs
      subst hs
      rw [List.flatMap_cons, List.append_assoc, List.getElem?_append_left (by rw [hf]; omega)]
      simp
    | succ slot =>
      simp only [List.getElem?_cons_succ] at hs
      rw [List.flatMap_cons, List.append_assoc, List.getElem?_append_right (by rw [hf]; omega), hf,
        show 9 * (slot + 1) + j - 9 = 9 * slot + j by omega]
      exact ih hs

/-- The values of a text are at most 46. -/
theorem valuesOf_le (text : List Code) : ∀ v ∈ valuesOf text, v ≤ 46 := by
  intro v hv
  simp only [valuesOf, List.mem_filterMap, valueOf_eq_some] at hv
  obtain ⟨_, _, h, _⟩ := hv
  exact h

/-- A text all of whose codes have a value has as many values as codes. -/
theorem valuesOf_length {text : List Code} (h : ∀ c ∈ text, isValued c = true) :
    (valuesOf text).length = text.length := (forall₂_valuesOf h).length_eq.symm

end Sys2Proof.Machine
end

