-- ==== Sys2Proof/Tests/Slice0.lean ====
section
/-! SUPPORT. The model's own tests. Expected values are those of spec/95_test_vectors.md (V<n>, P<n>) and of the tables of
30_encoding.md and 40_symbol_table.md; a `witness_<Name>` shows inputs that meet the hypotheses of `Obligations.<Name>`. -/

namespace Sys2Proof.Tests

open Sys2Proof.Machine Sys2Proof.Claims

-- One theorem after another: many evaluations in the kernel at once need more threads than a small memory limit allows.
set_option Elab.async false

/-! ## Helpers -/

/-- The state a result goes on in. -/
def nextOf (r : Result) : Option State :=
  match r with
  | .next t => some t
  | .fault _ => none
  | .refused _ => none

theorem next_of_nextOf {r : Result} {t : State} (h : nextOf r = some t) : r = .next t := by
  cases r <;> simp_all [nextOf]

/-- The state a result goes on in, or `s`. -/
def after (r : Result) (s : State) : State := (nextOf r).getD s

/-- The state after reset with a text in it. -/
def withText (cs : List Code) : State := { State.reset with txt := cs }

/-- The same with room for `n` characters. -/
def withTextMax (n : Nat) (cs : List Code) : State := { withText cs with cfg := { Config.reference with textMax := some n } }

/-- Text `A`, encoded. -/
def encoded : State := after (execEnc (withText [0x41#8])) State.reset

/-- Text `A`, encoded, with its runs. -/
def scanned : State := after (execRuns encoded) State.reset

/-- Text `A` at `WIDTH` 46 up to its rectangles. -/
def scaled : State := after (execGeom { scanned with width := .rat 46 }) State.reset

/-- The response a result ends with. -/
def respOf (r : Result) : Option Response := (nextOf r).bind State.resp

/-! ## WellFormed: an ill-formed operand for each check of R61, and the operands next to it -/

theorem test_illformed_luv : (Instr.luv 47#8).wellFormed = false ∧ (Instr.luv 255#8).wellFormed = false := by decide
theorem test_wellformed_luv : (Instr.luv 46#8).wellFormed = true ∧ (Instr.luv 0#8).wellFormed = true := by decide
theorem test_illformed_csum : (Instr.csum 0#8).wellFormed = false := by decide
theorem test_wellformed_csum : (Instr.csum 1#8).wellFormed = true ∧ (Instr.csum 255#8).wellFormed = true := by decide
theorem test_wellformed_push : (Instr.push 0xFF#8).wellFormed = true ∧ (Instr.luc 0#8).wellFormed = true := by decide

/-! ## Decoding: words written out from table R66-T, patterns from 40_symbol_table.md -/

theorem test_decode_commands :
    [0b0000000000000000#16, 0b0001000001000001#16, 0b0010000010100100#16, 0b0011000000011110#16, 0b0100000000010100#16,
      0b0101000000000000#16, 0b0110000000000000#16, 0b0111000000000000#16].map decodeCmd =
      [.instr .clr, .instr (.push 0x41#8), .instr (.luc 0xA4#8), .instr (.luv 30#8), .instr (.csum 20#8), .instr .enc,
        .instr .runs, .instr .geom] := by decide

theorem test_decode_digits :
    [0b100010100#9, 0b101001000#9, 0b101000100#9, 0b101000010#9, 0b100101000#9,
      0b100100100#9, 0b100100010#9, 0b101010000#9, 0b100010010#9, 0b100001010#9].map decodeSym =
      [.instr .sym0, .instr .sym1, .instr .sym2, .instr .sym3, .instr .sym4,
      .instr .sym5, .instr .sym6, .instr .sym7, .instr .sym8, .instr .sym9] := by decide

theorem test_decode_letters_A_to_M :
    [0b110101000#9, 0b110100100#9, 0b110100010#9, 0b110010100#9, 0b110010010#9,
      0b110001010#9, 0b101101000#9, 0b101100100#9, 0b101100010#9, 0b100110100#9,
      0b100011010#9, 0b101011000#9, 0b101001100#9].map decodeSym =
      [.instr .symA, .instr .symB, .instr .symC, .instr .symD, .instr .symE,
      .instr .symF, .instr .symG, .instr .symH, .instr .symI, .instr .symJ,
      .instr .symK, .instr .symL, .instr .symM] := by decide

theorem test_decode_letters_N_to_Z :
    [0b101000110#9, 0b100101100#9, 0b100010110#9, 0b110110100#9, 0b110110010#9,
      0b110101100#9, 0b110100110#9, 0b110010110#9, 0b110011010#9, 0b101101100#9,
      0b101100110#9, 0b100110110#9, 0b100111010#9].map decodeSym =
      [.instr .symN, .instr .symO, .instr .symP, .instr .symQ, .instr .symR,
      .instr .symS, .instr .symT, .instr .symU, .instr .symV, .instr .symW,
      .instr .symX, .instr .symY, .instr .symZ] := by decide

theorem test_decode_punctuation :
    [0b100101110#9, 0b111010100#9, 0b111010010#9, 0b111001010#9, 0b101101110#9,
      0b101110110#9, 0b110101110#9].map decodeSym =
      [.instr .symMinus, .instr .symDot, .instr .symSpace, .instr .symDollar, .instr .symSlash,
      .instr .symPlus, .instr .symPercent] := by decide

theorem test_decode_check_symbols_and_sentinel :
    [0b100100110#9, 0b111011010#9, 0b111010110#9, 0b100110010#9, 0b101011110#9].map decodeSym =
      [.instr .symCheckDollar, .instr .symCheckPercent, .instr .symCheckSlash, .instr .symCheckPlus, .instr .symSentinel] := by decide

/-- V27 and R70: reserved opcodes, a non-zero `rsv`, an operand where there is none. -/
theorem test_decode_illegal_words :
    [0x8000#16, 0xFFFF#16, 0x1100#16, 0x0F00#16, 0x0001#16, 0x5001#16, 0x60FF#16, 0x7080#16].map decodeCmd =
      [.illegal .reservedOpcode, .illegal .reservedField, .illegal .reservedField, .illegal .reservedField,
        .illegal .operandNotZero, .illegal .operandNotZero, .illegal .operandNotZero, .illegal .operandNotZero] := by decide

theorem test_decode_no_pattern : decodeSym 0b101011111#9 = .illegal .noSuchPattern := by decide

/-- The run widths that 40_symbol_table.md prints beside each pattern. -/
theorem test_run_widths_digits :
    (List.range' 0 10).map (fun k => (runsOf (modulesOf (romPattern k))).map Run.width) =
      [[1, 3, 1, 1, 1, 2], [1, 1, 1, 2, 1, 3], [1, 1, 1, 3, 1, 2], [1, 1, 1, 4, 1, 1], [1, 2, 1, 1, 1, 3],
      [1, 2, 1, 2, 1, 2], [1, 2, 1, 3, 1, 1], [1, 1, 1, 1, 1, 4], [1, 3, 1, 2, 1, 1], [1, 4, 1, 1, 1, 1]] := by decide +kernel

/-- As above. -/
theorem test_run_widths_letters_A_to_M :
    (List.range' 10 13).map (fun k => (runsOf (modulesOf (romPattern k))).map Run.width) =
      [[2, 1, 1, 1, 1, 3], [2, 1, 1, 2, 1, 2], [2, 1, 1, 3, 1, 1], [2, 2, 1, 1, 1, 2], [2, 2, 1, 2, 1, 1],
      [2, 3, 1, 1, 1, 1], [1, 1, 2, 1, 1, 3], [1, 1, 2, 2, 1, 2], [1, 1, 2, 3, 1, 1], [1, 2, 2, 1, 1, 2],
      [1, 3, 2, 1, 1, 1], [1, 1, 1, 1, 2, 3], [1, 1, 1, 2, 2, 2]] := by decide +kernel

/-- As above. -/
theorem test_run_widths_letters_N_to_Z :
    (List.range' 23 13).map (fun k => (runsOf (modulesOf (romPattern k))).map Run.width) =
      [[1, 1, 1, 3, 2, 1], [1, 2, 1, 1, 2, 2], [1, 3, 1, 1, 2, 1], [2, 1, 2, 1, 1, 2], [2, 1, 2, 2, 1, 1],
      [2, 1, 1, 1, 2, 2], [2, 1, 1, 2, 2, 1], [2, 2, 1, 1, 2, 1], [2, 2, 2, 1, 1, 1], [1, 1, 2, 1, 2, 2],
      [1, 1, 2, 2, 2, 1], [1, 2, 2, 1, 2, 1], [1, 2, 3, 1, 1, 1]] := by decide +kernel

/-- As above. -/
theorem test_run_widths_punctuation :
    (List.range' 36 7).map (fun k => (runsOf (modulesOf (romPattern k))).map Run.width) =
      [[1, 2, 1, 1, 3, 1], [3, 1, 1, 1, 1, 2], [3, 1, 1, 2, 1, 1], [3, 2, 1, 1, 1, 1], [1, 1, 2, 1, 3, 1],
      [1, 1, 3, 1, 2, 1], [2, 1, 1, 1, 3, 1]] := by decide +kernel

/-- As above. -/
theorem test_run_widths_check_symbols :
    (List.range' 43 4).map (fun k => (runsOf (modulesOf (romPattern k))).map Run.width) =
      [[1, 2, 1, 2, 2, 1], [3, 1, 2, 1, 1, 1], [3, 1, 1, 1, 2, 1], [1, 2, 2, 2, 1, 1]] := by decide +kernel

/-! ## The opcode table's numbering -/

theorem test_table_word_of_a_command : decodeTableWord 16 0x1041 = some (.push 0x41#8) := by decide
theorem test_table_word_of_a_row : decodeTableWord 16 0x15E = some .symSentinel ∧ decodeTableWord 9 0x114 = some .sym0 := by
  decide
theorem test_table_word_illegal : decodeTableWord 16 0x8000 = none ∧ decodeTableWord 16 0x1FF = none := by decide

/-- P1: the first `PUSH` after reset, as the very next step. -/
theorem test_fetch_word_runs_a_command :
    (nextOf (step (State.reset.withFetchWord 16 0x1041))).map State.txt = some [0x41#8] := by decide +kernel

/-- V8: `RD SYMROM[47]`. -/
theorem test_fetch_word_runs_a_row :
    respOf (step (State.reset.withFetchWord 16 0x15E)) = some (.rdOk (.pattern 0b101011110#9)) := by decide +kernel

/-! ## One step of each instruction -/

/-- R132. -/
theorem test_clr_empties : (nextOf (exec .clr encoded)).map (fun t => (t.txt, t.enc)) = some ([], none) := by decide +kernel

/-- R131. -/
theorem test_push_appends_any_code : (nextOf (exec (.push 0xFF#8) encoded)).map (fun t => (t.txt, encv t)) =
    some ([0x41#8, 0xFF#8], false) := by decide +kernel

/-- R131. -/
theorem test_push_overflow : (nextOf (exec (.push 0x42#8) (withTextMax 1 [0x41#8]))).map (fun t => (t.txt, t.err)) =
    some ([0x41#8], .textOverflow) := by decide +kernel

/-- V6: `LUC '(+)'`. -/
theorem test_luc_last_value : (nextOf (exec (.luc 0xAB#8) State.reset)).map State.lookup =
    some (some ⟨46#6, 0xAB#8, 0b100110010#9⟩) := by decide +kernel

/-- V6: `LUC 0xFF`. -/
theorem test_luc_sentinel : (nextOf (exec (.luc 0xFF#8) State.reset)).map (fun t => (t.lookup, t.err)) =
    some (none, .unknownSymbol 0xFF#8 0) := by decide +kernel

/-- V7: `LUV 30`. -/
theorem test_luv_value : (nextOf (exec (.luv 30#8) State.reset)).map (fun t => (t.lookup, statusWord t)) =
    some (some ⟨30#6, 0x55#8, 0b110010110#9⟩, 0x0010#16) := by decide +kernel

/-- V7: `LUV 47`. -/
theorem test_luv_rom_index_is_no_value : (nextOf (exec (.luv 47#8) State.reset)).map statusWord = some 0x0006#16 := by
  decide +kernel

/-- V9: `CSUM 15` on `A B V`. -/
theorem test_csum_weights : (nextOf (exec (.csum 15#8) (withText [0x41#8, 0x42#8, 0x56#8]))).map State.lookup =
    some (some ⟨36#6, 0x2D#8, 0b100101110#9⟩) := by decide +kernel

/-- V10: `A`, 0x61. -/
theorem test_csum_first_failure : (nextOf (exec (.csum 20#8) (withText [0x41#8, 0x61#8]))).map State.err =
    some (.unknownSymbol 0x61#8 1) := by decide +kernel

/-- R133: text `A`. -/
theorem test_enc_bits : encoded.enc.map (fun e => (e.csym, e.ksym, bitsOfRuns (runsOf e.bits))) =
    some (10#6, 30#6,
      [0b101011110#9, 0b110101000#9, 0b110101000#9, 0b110010110#9, 0b101011110#9].flatMap modulesOf ++ [true]) := by
  decide +kernel

/-- V4: `ENC` of a lowercase letter. -/
theorem test_enc_lowercase : (nextOf (exec .enc (withText [0x61#8]))).map (fun t => (t.err, statusWord t)) =
    some (.invalidCharacter 0x61#8 0, 0x0002#16) := by decide +kernel

/-- R151: text `A`. -/
theorem test_runs_widths : scanned.runs.map (fun rs => rs.map Run.width) =
    some [1, 1, 1, 1, 4, 1, 2, 1, 1, 1, 1, 3, 2, 1, 1, 1, 1, 3, 2, 2, 1, 1, 2, 1, 1, 1, 1, 1, 4, 1, 1] := by decide +kernel

/-- R151. -/
theorem test_runs_not_ready : (nextOf (exec .runs State.reset)).map statusWord = some 0x0007#16 := by decide +kernel

/-- R163: text `A`, `WIDTH` 46. -/
theorem test_geom_rectangles : scaled.geo.map (fun g => (g.rects.map Rect.x, g.canvasW, g.canvasH)) =
    some ([0, 2, 4, 9, 12, 14, 18, 21, 23, 27, 31, 33, 36, 38, 40, 45].map Number.rat, .rat 46, .rat 50) := by
  decide +kernel

/-- R167. -/
theorem test_geom_illegal_width : (nextOf (exec .geom { scanned with width := .rat 0 })).map (fun t => (t.err, runv t)) =
    some (.invalidGeometryRequest, true) := by decide +kernel

/-- V8: three elements of `SYMROM`, and what a row leaves. -/
theorem test_rows_respond : [Instr.sym0, .symA, .symCheckPlus].map (fun i => respOf (exec i State.reset)) =
    [0b100010100#9, 0b110101000#9, 0b100110010#9].map (fun p => some (.rdOk (.pattern p))) := by decide +kernel

/-- V24: the binary64 module width of 46 modules at `WIDTH` 200, and three of them. -/
theorem test_binary64_rounds :
    binary64Domain.div (.rat 200) (binary64Domain.ofNat 46) = .rat (mkRat 0x11642c8590b216 (2 ^ 50)) ∧
      binary64Domain.mul (binary64Domain.ofNat 3) (.rat (mkRat 0x11642c8590b216 (2 ^ 50))) =
        .rat (mkRat 0x1a1642c8590b21 (2 ^ 49)) := by decide +kernel

/-- Fixed point with 4 fraction bits, by hand: 200/46 is 69.56/16, and -1/32 goes down to -1/16 (log 23). -/
theorem test_fixed_point_rounds :
    (fixedPointDomain 4).div (.rat 200) ((fixedPointDomain 4).ofNat 46) = .rat (69 / 16) ∧
      (fixedPointDomain 4).mul (.rat (1 / 2)) (.rat (-1 / 16)) = .rat (-1 / 16) := by decide +kernel

/-- A block whose `NUM` is no named one: a number outside it is not written, a token of it is. -/
theorem test_other_domain :
    (busWrite 0 16 (.num (.rat 1)) { State.reset with cfg := { Config.reference with num := .other 7 (some 255) } }).resp = some .badAddress ∧
      (busWrite 0 16 (.num (.token 255)) { State.reset with cfg := { Config.reference with num := .other 7 (some 255) } }).width =
        .token 255 := by decide +kernel

/-! ## Witnesses: inputs that meet the hypotheses of the statements -/

theorem hasValue_A : HasValue 0x41#8 10 := ⟨by decide, by decide⟩
theorem hasValue_last : HasValue 0xAB#8 46 := ⟨by decide, by decide⟩
theorem user_A : IsUserCode 0x41#8 := ⟨10, by decide, by decide⟩
theorem not_user_check : ¬ IsUserCode 0xA4#8 := fun h => absurd (isUser_iff.mpr h) (by decide)
theorem not_valued_sentinel : ∀ v, ¬ HasValue 0xFF#8 v := fun v h => absurd (isValued_iff.mpr ⟨v, h⟩) (by decide)

theorem encodes_A : encodeText [0x41#8] = .ok (encodeValues [10]) := by rfl

/-- A state with a text, an encoding, runs and a geometry that meets the invariant, with `TEXT_MAX` = 1. -/
def full : State :=
  { withTextMax 1 [0x41#8] with
    lookup := some (symbolAt 46), enc := some (encodeValues [10]), runs := some (runsOf (encodeValues [10]).bits),
    geo := some (geometryOf (runsOf (encodeValues [10]).bits) (withTextMax 1 [0x41#8])) }

theorem full_inv : StateInv full where
  textFits := by rintro n ⟨⟩; decide
  lookup := by rintro y ⟨⟩; exact ⟨46, by decide, rfl⟩
  encoding := by rintro e ⟨⟩; rfl
  runs := by rintro rs ⟨⟩; exact ⟨_, rfl, rfl⟩
  geometry := by rintro g ⟨⟩; exact ⟨_, rfl, by decide +kernel, rfl⟩
  config := ⟨rfl, rfl, rfl, rfl, rfl⟩

theorem witness_DecodedBitsEncodeBack :
    decodeCmd 0x10FF#16 = .instr (.push 0xFF#8) ∧ decodeSym 0b101011110#9 = .instr .symSentinel := by decide

/-- For each reason at its boundaries, and the legal words next to them. -/
theorem witness_IllegalWordsChangeOnlyErr :
    (8 ≤ ((0x8000#16).extractLsb' 12 4).toNat ∧ 8 ≤ ((0xF000#16).extractLsb' 12 4).toNat) ∧
      ((0x7100#16).extractLsb' 8 4 ≠ 0#4 ∧ (0x1F00#16).extractLsb' 8 4 ≠ 0#4) ∧
      [0x0001#16, 0x50FF#16, 0x6001#16, 0x7080#16].all
        (fun w => decide ((w.extractLsb' 12 4).toNat ∈ [0, 5, 6, 7] ∧ w.extractLsb' 0 8 ≠ 0#8)) = true ∧
      [0x0000#16, 0x10FF#16, 0x4000#16, 0x7000#16].all
        (fun w => decide (¬ (8 ≤ (w.extractLsb' 12 4).toNat ∨ w.extractLsb' 8 4 ≠ 0#4 ∨
          ((w.extractLsb' 12 4).toNat ∈ [0, 5, 6, 7] ∧ w.extractLsb' 0 8 ≠ 0#8)))) = true := by decide

theorem witness_StepRunsDecodedInstruction :
    decodeCmd 0x1041#16 = .instr (.push 0x41#8) ∧ Instr.sym0.romIndex = some 0 ∧ Instr.symSentinel.romIndex = some 47 ∧
      decodeTableWord 16 0x5000 = some .enc ∧ decodeTableWord 9 0x132 = some .symCheckPlus := by decide

/-- The named formats. -/
theorem witness_ResetGivesTheResetState :
    [NumFormat.exact, .binary64, .fixedPoint 16].all
      (fun f => decide ((State.afterReset { Config.reference with num := f }).width = .rat 200)) = true := by decide +kernel

theorem witness_StepServesTheOldestEvent : State.reset.input = [] := rfl

theorem witness_StepKeepsTheInvariant :
    StateInv full ∧ (nextOf (step { full with input := [.cmd 0x7000#16] })).isSome = true := ⟨full_inv, by decide +kernel⟩

theorem witness_FlagsFormAChain : StateInv full ∧ flags full = (true, true, true, true) := ⟨full_inv, by decide⟩

theorem witness_EveryStepCompletes : StateInv full ∧ StateInv { full with input := [.cmd 0x6000#16] } :=
  ⟨full_inv, { full_inv with }⟩

theorem witness_ValueRegistersStayBelow47 :
    StateInv full ∧ full.lookup = some (symbolAt 46) ∧ full.enc = some (encodeValues [10]) := ⟨full_inv, rfl, rfl⟩

theorem witness_ResultsFitTheBuffers :
    StateInv full ∧ full.cfg.textMax = some 1 ∧ encv full = true ∧ runv full = true ∧ geov full = true :=
  ⟨full_inv, rfl, rfl, rfl, rfl⟩

theorem witness_StatusWordIsAssembled : (nextOf (serve (.cmd 0x8000#16) full)).map statusWord = some 0x00F5#16 := by
  decide +kernel

/-- Each command and outcome of table R28-T, and the two outcomes of a `WR`. -/
theorem witness_FlagWritesByOutcome :
    (nextOf (exec .clr full)).isSome = true ∧
      [exec (.push 0#8) State.reset, exec (.push 0#8) full, exec (.luc 0x41#8) full, exec (.luc 0xFF#8) full,
        exec (.luv 46#8) full, exec (.luv 47#8) full, exec (.csum 1#8) full, exec (.csum 0#8) full, exec .enc full,
        exec .enc State.reset, exec .enc (withText [0xA4#8]), exec .runs full, exec .runs State.reset, exec .geom full,
        exec .geom State.reset, exec .geom { full with width := .rat 0 }].map (fun r => (nextOf r).map State.err) =
        [some .ok, some .textOverflow, some .ok, some (.unknownSymbol 0xFF#8 0), some .ok, some .illegalOperand, some .ok,
          some .illegalOperand, some .ok, some .emptyInput, some (.invalidCharacter 0xA4#8 0), some .ok, some .notReady,
          some .ok, some .notReady, some .invalidGeometryRequest] ∧
      decodeCmd 0x8000#16 = .illegal .reservedOpcode ∧
      (busWrite 0 16 (.num (.rat 0)) full).resp = some .wrOk ∧ (busWrite 0 15 (.num (.rat 0)) full).resp = some .badAddress := by
  decide +kernel

/-- A command word for each row of table R205-T. -/
theorem witness_ErrorEntryChangesOnlyItsRow :
    [serve (.cmd 0x5000#16) State.reset, serve (.cmd 0x5000#16) (withText [0x41#8, 0x61#8]), serve (.cmd 0x20FF#16) full,
      serve (.cmd 0x4014#16) (withText [0x41#8, 0xFF#8]), serve (.cmd 0x7000#16) { full with height := .rat 0 },
      serve (.cmd 0x0001#16) full, serve (.cmd 0x302F#16) full, serve (.cmd 0x4000#16) full, serve (.cmd 0x6000#16) State.reset,
      serve (.cmd 0x7000#16) State.reset, serve (.cmd 0x1041#16) full].map (fun r => (nextOf r).map State.err) =
      [some .emptyInput, some (.invalidCharacter 0x61#8 1), some (.unknownSymbol 0xFF#8 0), some (.unknownSymbol 0xFF#8 1),
        some .invalidGeometryRequest, some .illegalCommand, some .illegalOperand, some .illegalOperand, some .notReady,
        some .notReady, some .textOverflow] := by decide +kernel

theorem witness_ErrorRecordLastsOneCommand :
    (nextOf (serve (.cmd 0x8000#16) full)).isSome = true ∧ (nextOf (serve (.wr 0 16 (.num (.rat 1))) full)).isSome = true ∧
      (nextOf (serve (.rd 0 1) full)).isSome = true := by decide +kernel

theorem witness_FailedCommandFailsAgain :
    (nextOf (serve (.cmd 0x302F#16) full)).map State.err = some .illegalOperand := by decide +kernel

/-- Room for one more character, and none. -/
theorem witness_PushResult :
    (∀ n, (withTextMax 2 [0x41#8]).cfg.textMax = some n → (withTextMax 2 [0x41#8]).txt.length < n) ∧
      full.cfg.textMax = some full.txt.length := ⟨by rintro n ⟨⟩; decide, rfl⟩

theorem witness_LucResult :
    HasValue 0x30#8 0 ∧ symrom 0 = some 0b100010100#9 ∧ HasValue 0xAB#8 46 ∧ symrom 46 = some 0b100110010#9 ∧
      ∀ v, ¬ HasValue 0xFF#8 v := ⟨⟨by decide, by decide⟩, by decide, hasValue_last, by decide, not_valued_sentinel⟩

theorem witness_LuvResult :
    ((46#8).toNat ≤ 46 ∧ chrrom 46 = some 0xAB#8 ∧ symrom 46 = some 0b100110010#9) ∧ 47 ≤ (47#8).toNat ∧ 47 ≤ (255#8).toNat := by
  decide

theorem witness_CsumResult :
    (255#8 : Imm8) ≠ 0#8 ∧ FirstBad (fun d => ∃ v, HasValue d v) [0x41#8, 0xFF#8, 0xFF#8] 0xFF#8 1 ∧
      List.Forall₂ HasValue [0x41#8, 0xAB#8] [10, 46] ∧ List.Forall₂ HasValue [] [] := by
  refine ⟨by decide, ⟨rfl, fun ⟨v, h⟩ => not_valued_sentinel v h, fun q d hq hd => ?_⟩, ?_, .nil⟩
  · obtain rfl : q = 0 := by omega
    cases hd
    exact ⟨10, hasValue_A⟩
  · exact .cons hasValue_A (.cons hasValue_last .nil)

theorem witness_EncResult :
    (withText []).txt = [] ∧ FirstBad IsUserCode (withText [0x41#8, 0xA4#8]).txt 0xA4#8 1 ∧
      (withText [0x41#8]).txt ≠ [] ∧ List.Forall₂ HasValue (withText [0x41#8]).txt [10] ∧ ∀ v ∈ [10], v ≤ 42 := by
  refine ⟨rfl, ⟨rfl, not_user_check, fun q d hq hd => ?_⟩, by decide, .cons hasValue_A .nil, by decide⟩
  obtain rfl : q = 0 := by omega
  cases hd
  exact user_A

theorem witness_RunsResult :
    State.reset.enc = none ∧ full.enc = some (encodeValues [10]) ∧ (encodeValues [10]).bits ≠ [] := ⟨rfl, rfl, by decide⟩

theorem witness_GeomResult :
    State.reset.runs = none ∧ full.runs = some (runsOf (encodeValues [10]).bits) ∧
      totalWidth (runsOf (encodeValues [10]).bits) ≠ 0 ∧
      legalRequest (numDomain full.cfg.num) full.width full.height full.padding = true :=
  ⟨rfl, rfl, by decide, by decide +kernel⟩

theorem witness_NoModulesStops :
    ({ State.reset with enc := some ⟨0, 0, []⟩ } : State).enc = some ⟨0, 0, []⟩ ∧
      ({ State.reset with runs := some [] } : State).runs = some [] ∧ totalWidth [] = 0 ∧
      legalRequest (numDomain State.reset.cfg.num) State.reset.width State.reset.height State.reset.padding = true :=
  ⟨rfl, rfl, rfl, by decide +kernel⟩

theorem witness_SymbolRowResult : Instr.sym0.romIndex = some 0 ∧ Instr.symSentinel.romIndex = some 47 := by decide

/-- The ends of each range of R62. -/
theorem witness_CharacterCodes :
    [0x30#8, 0x39#8, 0x41#8, 0x5A#8, 0xA4#8, 0xA5#8, 0xAF#8, 0xAB#8].map valueOf =
      [some 0, some 9, some 10, some 35, some 43, some 44, some 45, some 46] ∧
      [0x1F#8, 0x21#8, 0x23#8, 0x26#8, 0x2A#8, 0x2C#8, 0x3A#8, 0x40#8, 0x5B#8, 0xA3#8, 0xA6#8, 0xAA#8, 0xAC#8, 0xAE#8, 0xB0#8,
        0xFE#8, 0xFF#8].map valueOf = List.replicate 17 none := by decide

theorem witness_LookupsAreInverse : HasValue 0xAB#8 46 ∧ valueOf 0xAB#8 = some 46 := ⟨hasValue_last, by decide⟩

theorem witness_PatternShape : symrom 0 = some 0b100010100#9 ∧ symrom 47 = some 0b101011110#9 := by decide

/-- Sums beyond 47. -/
theorem witness_ChecksumIsAlwaysAValue : 1 ≤ 1 ∧ reducedSum [46, 46, 46] 15 = 41 ∧ reducedSum [10, 11, 31] 15 = 36 := by decide

theorem witness_ChecksumIsTheWeightedSum : 1 ≤ 1 ∧ checksum [10, 11, 31] 15 = 36 := by decide

theorem witness_EncodingLength : encodeText [0x41#8] = .ok (encodeValues [10]) := encodes_A

theorem witness_ModuleSequenceLayout :
    encodeText [0x41#8] = .ok (encodeValues [10]) ∧ List.Forall₂ HasValue [0x41#8] [10] ∧ 10 = checksum [10] 20 ∧
      30 = checksum ([10] ++ [10]) 15 ∧ (slotIndices [10] 10 30)[4]? = some 47 ∧ symrom 47 = some 0b101011110#9 ∧
      (slotIndices [10] 10 30)[0]? = some 47 := ⟨encodes_A, .cons hasValue_A .nil, by decide, by decide, by decide, by decide, by decide⟩

theorem witness_ModuleSequenceShape : encodeText [0x41#8] = .ok (encodeValues [10]) := encodes_A

theorem witness_EncDependsOnTheTextAlone :
    (withText [0x41#8]).txt = full.txt ∧ (∃ t, exec .enc (withText [0x41#8]) = .next t) ∧ ∃ t, exec .enc full = .next t :=
  ⟨rfl, ⟨_, rfl⟩, ⟨_, rfl⟩⟩

theorem witness_EncKeepsTheText :
    (after (exec .enc (withText [0x41#8])) State.reset).enc = some (encodeValues [10]) ∧
      List.Forall₂ HasValue (withText [0x41#8]).txt [10] := ⟨by decide +kernel, .cons hasValue_A .nil⟩

theorem witness_RunsAreTheMaximalSpans :
    [true, true, false] ≠ [] ∧ MaximalRuns [⟨true, 2⟩, ⟨false, 1⟩] ∧ bitsOfRuns [⟨true, 2⟩, ⟨false, 1⟩] = [true, true, false] :=
  ⟨by decide, ⟨by decide, by decide⟩, rfl⟩

theorem witness_RunsOfAnEncoding : encodeText [0x41#8] = .ok (encodeValues [10]) := encodes_A

theorem witness_RunsDoesNotConsumeTheBits :
    (∃ t, exec .runs full = .next t) ∧ full.enc = some (encodeValues [10]) := ⟨⟨_, rfl⟩, rfl⟩

/-- `full` in binary64. -/
def full64 : State := { full with cfg := { full.cfg with num := .binary64 } }

/-- The ends of legality in ℚ and in binary64, and a value of each kind for the tests of every format. -/
theorem witness_IllegalGeometryRequests :
    full.runs = some (runsOf (encodeValues [10]).bits) ∧ totalWidth (runsOf (encodeValues [10]).bits) ≠ 0 ∧
      full.cfg.num = .exact ∧ full.width = .rat 200 ∧ full.height = .rat 50 ∧ full.padding = .rat 0 ∧
      (numDomain .exact).pos (.rat 0) = false ∧ (0 : ℚ) ≤ 0 ∧ (0 : ℚ) < 200 ∧ (0 : ℚ) < 50 ∧ full64.runs = full.runs ∧
      full64.cfg.num = .binary64 ∧ full64.width = .rat 200 ∧ full64.height = .rat 50 ∧ full64.padding = .rat 0 ∧
      (numDomain (.fixedPoint 16)).pos (.rat 1) = true ∧
      [Number.nan, .inf true, .inf false, .negZero, .rat 0].all (isNum .binary64) = true :=
  ⟨rfl, by decide, rfl, rfl, rfl, rfl, by decide +kernel, le_rfl, by norm_num, by norm_num, rfl, rfl, rfl, rfl, rfl,
    by decide +kernel, by decide +kernel⟩

/-- V26: each non-finite or zero value in binary64, one register at a time, and a finite padding. -/
theorem test_binary64_requests :
    ([{ full64 with width := .nan }, { full64 with width := .inf false }, { full64 with width := .negZero },
        { full64 with height := .nan }, { full64 with height := .inf false }, { full64 with height := .negZero },
        { full64 with padding := .nan }, { full64 with padding := .inf true }].map
      (fun s => (nextOf (execGeom s)).map State.err)).all (fun e => decide (e = some .invalidGeometryRequest)) = true ∧
      (nextOf (execGeom { full64 with padding := .negZero })).map State.err = some .ok := by decide +kernel

theorem witness_GeometryClosedForm :
    full.runs = some (runsOf (encodeValues [10]).bits) ∧ totalWidth (runsOf (encodeValues [10]).bits) ≠ 0 ∧
      full.cfg.num = .exact ∧ full.width = .rat 200 ∧ full.height = .rat 50 ∧ full.padding = .rat 0 ∧ (0 : ℚ) < 200 ∧
      (0 : ℚ) < 50 ∧ (runsOf (encodeValues [10]).bits)[30]? = some ⟨true, 1⟩ :=
  ⟨rfl, by decide, rfl, rfl, rfl, rfl, by norm_num, by norm_num, by decide⟩

theorem witness_GeometryCoverage :
    (0 : ℚ) < 200 ∧ totalWidth [⟨true, 1⟩, ⟨false, 2⟩, ⟨true, 4⟩] ≠ 0 ∧
      ∀ r ∈ [(⟨true, 1⟩ : Run), ⟨false, 2⟩, ⟨true, 4⟩], 1 ≤ r.width := ⟨by norm_num, by decide, by decide⟩

theorem witness_RunAndRectangleCounts :
    StateInv full ∧ full.runs = some (runsOf (encodeValues [10]).bits) ∧ geov full = true := ⟨full_inv, rfl, rfl⟩

theorem witness_CsumStagesMatchEnc :
    encodeText (withTextMax 2 [0x41#8]).txt = .ok (encodeValues [10]) ∧
      ∀ n, (withTextMax 2 [0x41#8]).cfg.textMax = some n → (withTextMax 2 [0x41#8]).txt.length < n :=
  ⟨encodes_A, by rintro n ⟨⟩; decide⟩

theorem witness_DrawingOrder :
    geov full = true ∧ full.bgColor = none ∧ ({ full with bgColor := some (.text "#fff") } : State).bgColor = some (.text "#fff") :=
  ⟨rfl, rfl, rfl⟩

/-- Values of `NUM` and `COLOUR` in several formats, the first values outside them, and addresses on both sides of 16 to 20. -/
theorem witness_WriteTransactions :
    isNum State.reset.cfg.num (.rat 0) = true ∧ isNum .binary64 .nan = true ∧ isNum (.other 0 (some 255)) (.token 255) = true ∧
      isNum (.other 0 (some 255)) (.token 256) = false ∧ isColour (.tokens (some 2)) (.token 1) = true ∧
      isColour (.tokens (some 2)) (.token 2) = false ∧ isColour (.tokens none) (.token 2) = true ∧
      (none : Option Colour).all (isColour .strings) = true ∧ ¬ (0 = 0 ∧ 16 ≤ 15 ∧ 15 ≤ 20) ∧
      ¬ (0 = 0 ∧ 16 ≤ 21 ∧ 21 ≤ 20) ∧ ¬ (1 = 0 ∧ 16 ≤ 16 ∧ 16 ≤ 20) := by decide

/-- Each clause at an end of its range: `full` has `TEXT_MAX` 1, so the capacities are 1, 46, 31 and 16. -/
theorem witness_ReadTransactions :
    full.cfg.textMax = some 1 ∧ State.reset.cfg.textMax = none ∧ full.lookup = some (symbolAt 46) ∧ lkv State.reset = false ∧
      full.enc = some (encodeValues [10]) ∧ encv State.reset = false ∧ full.runs = some (runsOf (encodeValues [10]).bits) ∧
      runv State.reset = false ∧ geov full = true ∧ geov State.reset = false ∧ symrom 47 = some 0b101011110#9 ∧
      chrrom 47 = some 0xFF#8 ∧ full.txt[0]? = some 0x41#8 ∧ (encodeValues [10]).bits[45]? = some true ∧
      (encodeValues [10]).bits.length ≤ 46 ∧ (runsOf (encodeValues [10]).bits)[30]? = some ⟨true, 1⟩ ∧
      (full.geo.map (fun g => g.rects.length)) = some 16 ∧
      ({ full with err := .unknownSymbol 0xFF#8 0 } : State).err = .unknownSymbol 0xFF#8 0 ∧ full.err.code ≠ 2#4 ∧
      full.err.code ≠ 3#4 := by
  refine ⟨rfl, rfl, rfl, rfl, rfl, rfl, rfl, rfl, rfl, rfl, ?_, ?_, ?_, ?_, ?_, ?_, ?_, rfl, ?_, ?_⟩ <;> decide +kernel

/-- What those ends read as: V20, V28, V29. -/
theorem witness_ReadTransactions_ends :
    [readSpace 0 14 full, readSpace 0 21 full, readSpace 1 48 full, readSpace 2 48 full, readSpace 3 1 full, readSpace 4 46 full,
      readSpace 5 31 full, readSpace 6 31 full, readSpace 7 16 full, readSpace 8 16 full, readSpace 9 0 full].all
      (fun r => decide (r = .badAddress)) = true ∧
      [readSpace 3 0 State.reset, readSpace 4 46 State.reset, readSpace 5 31 State.reset, readSpace 8 16 State.reset,
        readSpace 0 1 State.reset, readSpace 0 13 State.reset].all (fun r => decide (r = .noValue)) = true := by decide +kernel

theorem witness_BusErrorsChangeNothing :
    (busWrite 3 0 (.code 0x41#8) full).resp = some .badAddress ∧ (busRead 9 0 full).resp = some .badAddress ∧
      (busRead 0 4 State.reset).resp = some .noValue := by decide +kernel

theorem witness_ReadGivesTheLatestWrite :
    (busWrite 0 16 (.num (.rat (-1))) full).resp = some .wrOk ∧ (busWrite 0 20 (.bgColour none) full).resp = some .wrOk := by
  decide +kernel

/-- A valid encoding, valid runs and a valid geometry that are replaced by others. -/
theorem witness_BuffersWrittenOnlyByTheirCommands :
    (nextOf (serve (.cmd 0x1041#16) State.reset)).map State.txt = some [0x41#8] ∧
      (nextOf (serve (.cmd 0x5000#16) { full with txt := [0x42#8] })).map (fun t => decide (t.enc ≠ full.enc ∧ t.enc ≠ none)) =
        some true ∧
      (nextOf (serve (.cmd 0x6000#16) { full with runs := some [] })).map
        (fun t => decide (t.runs ≠ some [] ∧ t.runs ≠ none)) = some true ∧
      (nextOf (serve (.cmd 0x7000#16) { full with width := .rat 46 })).map
        (fun t => decide (t.geo ≠ full.geo ∧ t.geo ≠ none)) = some true := by decide +kernel

/-- A change of the configuration by `WR` and by reset, and no write: a wrong index, a wrong space, a value of another type, and a
number and a colour outside the block's formats. -/
theorem witness_ConfigurationChangesOnlyByTypedWrites :
    (nextOf (serve (.cmd 0x7000#16) full)).isSome = true ∧
      (nextOf (serve (.wr 0 16 (.num (.rat 46))) full)).map configuration ≠ some (configuration full) ∧
      (nextOf (serve .reset { full with bgColor := some (.token 0) })).map configuration ≠
        some (configuration { full with bgColor := some (.token 0) }) ∧
      ¬ IsConfigWrite Config.reference 0 15 (.num (.rat 0)) ∧ ¬ IsConfigWrite Config.reference 1 16 (.num (.rat 0)) ∧
      ¬ IsConfigWrite Config.reference 0 16 (.colour (.text "#fff")) ∧ ¬ IsConfigWrite Config.reference 0 18 (.num .nan) ∧
      ¬ IsConfigWrite Config.reference 0 20 (.bgColour (some (.token 0))) := by
  refine ⟨by decide +kernel, by decide +kernel, by decide +kernel, ?_, ?_, ?_, ?_, ?_⟩ <;>
    simp [IsConfigWrite, Config.reference, isNum, isRat, isColour]

theorem witness_TextChangeInvalidatesResults :
    (∃ t, exec .clr full = .next t) ∧ (∃ t, exec (.push 0x41#8) State.reset = .next t ∧ t.err = .ok) ∧
      (∃ t, exec .enc { full with txt := [] } = .next t ∧ t.err ≠ .ok) ∧
      (nextOf (serve (.cmd 0x5000#16) (withText [0x41#8]))).map encv = some true ∧
      (nextOf (serve (.cmd 0x6000#16) encoded)).map runv = some true ∧
      (nextOf (serve (.cmd 0x7000#16) scanned)).map geov = some true :=
  ⟨⟨_, rfl⟩, ⟨_, rfl, rfl⟩, ⟨_, rfl, by decide⟩, by decide +kernel, by decide +kernel, by decide +kernel⟩

theorem witness_ConfigurationChangeInvalidatesGeometryOnly :
    IsConfigWrite full.cfg 0 16 (.num (.rat 200)) ∧ IsConfigWrite full.cfg 0 18 (.num (.rat 0)) ∧
      IsConfigWrite full.cfg 0 19 (.colour (.text "#000")) ∧ IsConfigWrite full.cfg 0 20 (.bgColour none) ∧ geov full = true :=
  ⟨⟨rfl, .inl ⟨.inl rfl, _, rfl, rfl⟩⟩, ⟨rfl, .inl ⟨.inr (.inr rfl), _, rfl, rfl⟩⟩, ⟨rfl, .inr (.inl ⟨rfl, _, rfl, rfl⟩)⟩,
    ⟨rfl, .inr (.inr ⟨rfl, _, rfl, rfl⟩)⟩, rfl⟩

theorem witness_FrameOfLookupCommands :
    (∃ t, exec (.luc 0xFF#8) full = .next t) ∧ (∃ t, exec (.luv 46#8) full = .next t) ∧ (∃ t, exec (.csum 20#8) full = .next t) ∧
      ¬ (0 = 0 ∧ 3 ∈ [0, 1, 2, 4, 5, 6]) := ⟨⟨_, rfl⟩, ⟨_, rfl⟩, ⟨_, rfl⟩, by decide⟩

theorem witness_FrameOfTextCommands :
    (∃ t, exec (.push 0x41#8) (withTextMax 2 [0x41#8]) = .next t) ∧ (∃ t, exec .clr full = .next t) ∧
      ¬ (3 = 3 ∧ 0 = (withTextMax 2 [0x41#8]).txt.length) := ⟨⟨_, rfl⟩, ⟨_, rfl⟩, by decide⟩

theorem witness_FrameOfStageCommands :
    (∃ t, exec .enc full = .next t) ∧ (∃ t, exec .runs full = .next t) ∧ ∃ t, exec .geom full = .next t :=
  ⟨⟨_, rfl⟩, ⟨_, rfl⟩, ⟨_, rfl⟩⟩

theorem witness_BarcodeCompletes :
    [0x41#8] ≠ [] ∧ (∀ c ∈ [0x41#8], IsUserCode c) ∧ (∀ n, full.cfg.textMax = some n → [0x41#8].length ≤ n) ∧
      legalRequest (numDomain full.cfg.num) full.width full.height full.padding = true := by
  refine ⟨by decide, ?_, by rintro n ⟨⟩; decide, by decide +kernel⟩
  intro c hc
  obtain rfl := List.mem_singleton.mp hc
  exact user_A

end Sys2Proof.Tests
end

/-! SUPPORT. The sizes of the bits, runs and rectangles of an accepted text. -/

namespace Sys2Proof.Machine

/-! ## Runs of joined sequences -/

/-- The scan puts out the run it is in when the fill changes, and starts afresh. -/
theorem scanRuns_append {l : List Bool} {r : Run} {b : Bool} (rest : List Bool) (h : l.getLast?.getD r.fill ≠ b) :
    scanRuns r (l ++ b :: rest) = scanRuns r l ++ runsOf (b :: rest) := by
  induction l generalizing r with
  | nil =>
    have hb : b ≠ r.fill := fun e => h e.symm
    simp [scanRuns, runsOf, hb]
  | cons c l ih =>
    have hl : l.getLast?.getD c ≠ b := by simpa [List.getLast?_cons] using h
    by_cases hc : c = r.fill
    · subst hc
      simpa [scanRuns] using ih (r := { r with width := r.width + 1 }) hl
    · simpa [scanRuns, hc] using ih (r := ⟨c, 1⟩) hl

/-- No run reaches over a joint at which the bit changes (43_run_encoder.md R153). -/
theorem runsOf_append {a b : List Bool} {x y : Bool} (ha : a.getLast? = some x) (hb : b.head? = some y) (hxy : x ≠ y) :
    runsOf (a ++ b) = runsOf a ++ runsOf b := by
  obtain ⟨rest, rfl⟩ := List.head?_eq_some_iff.mp hb
  cases a with
  | nil => cases ha
  | cons c l =>
    have hl : l.getLast?.getD c ≠ y := by
      rw [List.getLast?_cons] at ha
      rwa [Option.some.inj ha]
    exact scanRuns_append rest hl

/-- Blocks that start with ink and end without, then one inked module: the runs are those of the blocks, then one more. -/
theorem runsOf_blocks {f : Nat → List Bool} {is : List Nat}
    (hf : ∀ i ∈ is, (f i).head? = some true ∧ (f i).getLast? = some false) :
    runsOf (is.flatMap f ++ [true]) = is.flatMap (fun i => runsOf (f i)) ++ [⟨true, 1⟩] := by
  induction is with
  | nil => rfl
  | cons i is ih =>
    obtain ⟨-, hlast⟩ := hf i (by simp)
    have hrest : ∀ j ∈ is, (f j).head? = some true ∧ (f j).getLast? = some false := fun j hj => hf j (by simp [hj])
    have hhead : (is.flatMap f ++ [true]).head? = some true := by
      cases is with
      | nil => rfl
      | cons j js => simp [(hrest j (by simp)).1]
    rw [List.flatMap_cons, List.append_assoc, runsOf_append hlast hhead (by decide), ih hrest, List.flatMap_cons,
      List.append_assoc]

/-! ## The patterns -/

/-- Every pattern starts with ink and ends without (40_symbol_table.md R110 (a)). -/
theorem modulesOf_romPattern_ends {i : Nat} (hi : i ≤ 47) :
    (modulesOf (romPattern i)).head? = some true ∧ (modulesOf (romPattern i)).getLast? = some false :=
  romPattern_forall (P := fun p => (modulesOf p).head? = some true ∧ (modulesOf p).getLast? = some false) (by decide) hi

/-- Every pattern has six runs (40_symbol_table.md R110 (b)). -/
theorem runsOf_romPattern_length {i : Nat} (hi : i ≤ 47) : (runsOf (modulesOf (romPattern i))).length = 6 :=
  romPattern_forall (P := fun p => (runsOf (modulesOf p)).length = 6) (by decide) hi

/-- Three of the six runs of a pattern are inked (40_symbol_table.md R110 (b)). -/
theorem runsOf_romPattern_countP {i : Nat} (hi : i ≤ 47) : (runsOf (modulesOf (romPattern i))).countP Run.fill = 3 :=
  romPattern_forall (P := fun p => (runsOf (modulesOf p)).countP Run.fill = 3) (by decide) hi

/-! ## The module sequence -/

theorem moduleSequence_length (values : List Nat) : (moduleSequence values).length = (values.length + 4) * 9 + 1 := by
  simp [moduleSequence, List.length_flatMap, modulesOf_length, slots_length]

/-- The runs of the module sequence are those of the slots' patterns, then the terminator (43_run_encoder.md R153). -/
theorem runsOf_moduleSequence {values : List Nat} (h : ∀ v ∈ values, v ≤ 46) :
    runsOf (moduleSequence values) =
      (slots values).flatMap (fun i => runsOf (modulesOf (romPattern i))) ++ [⟨true, 1⟩] :=
  runsOf_blocks (fun i hi => modulesOf_romPattern_ends (slots_le h i hi))

theorem runsOf_moduleSequence_length {values : List Nat} (h : ∀ v ∈ values, v ≤ 46) :
    (runsOf (moduleSequence values)).length = 6 * (values.length + 4) + 1 := by
  have hslot : ∀ i ∈ slots values, (runsOf (modulesOf (romPattern i))).length = 6 :=
    fun i hi => runsOf_romPattern_length (slots_le h i hi)
  rw [runsOf_moduleSequence h, List.length_append, List.length_flatMap, List.map_congr_left hslot]
  simp [slots_length, Nat.mul_comm]

theorem runsOf_moduleSequence_countP {values : List Nat} (h : ∀ v ∈ values, v ≤ 46) :
    (runsOf (moduleSequence values)).countP Run.fill = 3 * (values.length + 4) + 1 := by
  have hslot : ∀ i ∈ slots values, (runsOf (modulesOf (romPattern i))).countP Run.fill = 3 :=
    fun i hi => runsOf_romPattern_countP (slots_le h i hi)
  rw [runsOf_moduleSequence h, List.countP_append, List.countP_flatMap]
  simp [Function.comp_def, List.map_congr_left hslot, slots_length, Nat.mul_comm]

/-! ## The encoding of a text -/

/-- An accepted text is encoded as the module sequence of values, one for each of its characters. -/
theorem encodeText_bits {text : List Code} {e : Encoded} (h : encodeText text = .ok e) :
    e.bits = moduleSequence (valuesOf text) ∧ (valuesOf text).length = text.length := by
  obtain ⟨-, huser, rfl⟩ := encodeText_ok h
  have hvalued : ∀ c ∈ text, isValued c = true := fun c hc => isValued_of_isUser (firstFailure_eq_none.mp huser c hc)
  exact ⟨rfl, valuesOf_length hvalued⟩

/-- `NBITS` (42_pattern_encoder.md R134). -/
theorem encodeText_bits_length {text : List Code} {e : Encoded} (h : encodeText text = .ok e) :
    e.bits.length = (text.length + 4) * 9 + 1 := by
  obtain ⟨hbits, hlen⟩ := encodeText_bits h
  rw [hbits, moduleSequence_length, hlen]

/-- `NRUNS` (43_run_encoder.md R153). -/
theorem encodeText_runs_length {text : List Code} {e : Encoded} (h : encodeText text = .ok e) :
    (runsOf e.bits).length = 6 * (text.length + 4) + 1 := by
  obtain ⟨hbits, hlen⟩ := encodeText_bits h
  rw [hbits, runsOf_moduleSequence_length (valuesOf_le text), hlen]

/-- The number of inked runs (43_run_encoder.md R153). -/
theorem encodeText_runs_countP {text : List Code} {e : Encoded} (h : encodeText text = .ok e) :
    (runsOf e.bits).countP Run.fill = 3 * (text.length + 4) + 1 := by
  obtain ⟨hbits, hlen⟩ := encodeText_bits h
  rw [hbits, runsOf_moduleSequence_countP (valuesOf_le text), hlen]

/-! ## The results of a state that meets the invariant -/

theorem StateInv.bits_length {s : State} (h : StateInv s) {e : Encoded} (he : s.enc = some e) :
    e.bits.length = (s.txt.length + 4) * 9 + 1 := encodeText_bits_length (h.encoding e he)

theorem StateInv.runs_length {s : State} (h : StateInv s) {rs : List Run} (hrs : s.runs = some rs) :
    rs.length = 6 * (s.txt.length + 4) + 1 := by
  obtain ⟨e, he, rfl⟩ := h.runs rs hrs
  exact encodeText_runs_length (h.encoding e he)

theorem StateInv.runs_countP {s : State} (h : StateInv s) {rs : List Run} (hrs : s.runs = some rs) :
    rs.countP Run.fill = 3 * (s.txt.length + 4) + 1 := by
  obtain ⟨e, he, rfl⟩ := h.runs rs hrs
  exact encodeText_runs_countP (h.encoding e he)

/-- `NRECT` (44_geometric_scaler.md R166): one rectangle for each inked run. -/
theorem StateInv.rects_length {s : State} (h : StateInv s) {g : Geometry Number} (hg : s.geo = some g) :
    g.rects.length = 3 * (s.txt.length + 4) + 1 := by
  obtain ⟨rs, hrs, -, rfl⟩ := h.geometry g hg
  calc (geometryOf rs s).rects.length = rs.countP Run.fill := walkRuns_length ..
    _ = 3 * (s.txt.length + 4) + 1 := h.runs_countP hrs

end Sys2Proof.Machine

namespace Sys2Proof.Proofs

open Sys2Proof.Machine

/-- Settles O13: each size is exact in `LEN`, and grows with it. -/
theorem resultsFitTheBuffers : Obligations.ResultsFitTheBuffers := by
  intro s n hinv hmax
  have hlen : s.txt.length ≤ n := hinv.textFits n hmax
  refine ⟨hlen, fun e he => ?_, fun rs hrs => ?_, fun g hg => ?_⟩
  · have := hinv.bits_length he
    omega
  · have := hinv.runs_length hrs
    omega
  · have := hinv.rects_length hg
    omega

end Sys2Proof.Proofs

/-! SUPPORT. Everything that serving one event can do to the state, said once over all events. -/

namespace Sys2Proof.Machine

open Sys2Proof.Claims

/-! ## The words of the commands -/

/-- A legal word is the encoding of what it decodes to (30_encoding.md R66). -/
theorem encode_of_decodeCmd {w : CmdWord} {i : Instr} (h : decodeCmd w = .instr i) : encode i = .cmd16 w := by
  obtain ⟨hrsv, hop⟩ := decodeCmd_cases h
  rw [← cmdWord_fields hrsv]
  rcases decodeOp_cases hop with ⟨e, e', rfl⟩ | ⟨e, rfl⟩ | ⟨e, rfl⟩ | ⟨e, rfl⟩ | ⟨e, rfl⟩ | ⟨e, e', rfl⟩ | ⟨e, e', rfl⟩ |
    ⟨e, e', rfl⟩ <;> simp only [encode, *]

/-! ## A write -/

/-- What a `WR` that is taken leaves: a configuration, no geometry and the response `OK` (20_memory.md R42; 10_state.md R28). -/
def reconfigure (w h p : Number) (f : Colour) (b : Option Colour) (s : State) : State :=
  { s with width := w, height := h, padding := p, fillColor := f, bgColor := b, geo := none, resp := some .wrOk }

/-- A `WR` is taken, and then it is one of a configuration register with a value of its type, or refused (20_memory.md R42). -/
theorem busWrite_taken_or_refused (space index : Nat) (v : Value) (s : State) :
    (IsConfigWrite s.cfg space index v ∧ ∃ w h p f b, busWrite space index v s = reconfigure w h p f b s) ∨
      busWrite space index v s = { s with resp := some .badAddress } := by
  rcases busWrite_cases space index v s with ⟨hs, hi, x, hv, hx, e⟩ | ⟨hs, hi, x, hv, hx, e⟩ | ⟨hs, hi, x, hv, hx, e⟩ |
    ⟨hs, hi, c, hv, hc, e⟩ | ⟨hs, hi, c, hv, hc, e⟩ | e
  · exact .inl ⟨⟨hs, .inl ⟨.inl hi, x, hv, hx⟩⟩, _, _, _, _, _, e⟩
  · exact .inl ⟨⟨hs, .inl ⟨.inr (.inl hi), x, hv, hx⟩⟩, _, _, _, _, _, e⟩
  · exact .inl ⟨⟨hs, .inl ⟨.inr (.inr hi), x, hv, hx⟩⟩, _, _, _, _, _, e⟩
  · exact .inl ⟨⟨hs, .inr (.inl ⟨hi, c, hv, hc⟩)⟩, _, _, _, _, _, e⟩
  · exact .inl ⟨⟨hs, .inr (.inr ⟨hi, c, hv, hc⟩)⟩, _, _, _, _, _, e⟩
  · exact .inr e

/-- `ERR` is of the most recent `CMD`, so that a `WR` leaves it (10_state.md R21). -/
@[simp] theorem busWrite_err (space index : Nat) (v : Value) (s : State) : (busWrite space index v s).err = s.err := by
  rcases busWrite_taken_or_refused space index v s with ⟨-, _, _, _, _, _, e⟩ | e
  · simp [e, reconfigure]
  · simp [e]

/-- A `WR` leaves values of `NUM` and `COLOUR` in the configuration registers (10_state.md R20). -/
theorem ConfigTyped.busWrite {s : State} (h : ConfigTyped s) (space index : Nat) (v : Value) :
    ConfigTyped (busWrite space index v s) := by
  obtain ⟨hw, hh, hp, hf, hb⟩ := h
  rcases busWrite_cases space index v s with ⟨-, -, x, -, hx, e⟩ | ⟨-, -, x, -, hx, e⟩ | ⟨-, -, x, -, hx, e⟩ |
    ⟨-, -, c, -, hc, e⟩ | ⟨-, -, c, -, hc, e⟩ | e <;> rw [e]
  · exact ⟨hx, hh, hp, hf, hb⟩
  · exact ⟨hw, hx, hp, hf, hb⟩
  · exact ⟨hw, hh, hx, hf, hb⟩
  · exact ⟨hw, hh, hp, hc, hb⟩
  · exact ⟨hw, hh, hp, hf, hc⟩
  · exact ⟨hw, hh, hp, hf, hb⟩

/-! ## One event -/

/-- How serving an event can end, for each event: an error of a command, the effects of a command that completes, a bus transaction,
or reset. `s` is the state without the event. -/
inductive Served (s : State) : Event → State → Prop
  | error (w : CmdWord) (e : CmdResult) : Served s (.cmd w) (finish e (errorFlags e s))
  | clr : Served s (.cmd 0x0000#16) (finish .ok (emptyText (clearLookup (clearResults s))))
  | push {w : CmdWord} {c : Code} (hw : decodeCmd w = .instr (.push c)) (room : textFull s = false) :
      Served s (.cmd w) (finish .ok (clearResults (appendChar c s)))
  | lookup (w : CmdWord) {v : Nat} (hv : v ≤ 46) : Served s (.cmd w) (finish .ok (writeLookup (symbolAt v) s))
  | enc {x : Encoded} (hx : encodeText s.txt = .ok x) : Served s (.cmd 0x5000#16) (finish .ok (writeEncoded x s))
  | runs {x : Encoded} (hx : s.enc = some x) : Served s (.cmd 0x6000#16) (finish .ok (writeRuns (runsOf x.bits) s))
  | geom {rs : List Run} (hrs : s.runs = some rs)
      (legal : legalRequest (numDomain s.cfg.num) s.width s.height s.padding = true) :
      Served s (.cmd 0x7000#16) (finish .ok (writeGeometry (geometryOf rs s) s))
  | write {space index : Nat} {v : Value} (hv : IsConfigWrite s.cfg space index v) (w h p : Number) (f : Colour)
      (b : Option Colour) (typed : ConfigTyped s → ConfigTyped (reconfigure w h p f b s)) :
      Served s (.wr space index v) (reconfigure w h p f b s)
  | refused (space index : Nat) (v : Value) : Served s (.wr space index v) { s with resp := some .badAddress }
  | read (space index : Nat) : Served s (.rd space index) (busRead space index s)
  | reset : Served s .reset (serveReset s)

/-- A legal word ends as `Served` says of its command. -/
theorem exec_served {w : CmdWord} {i : Instr} {s t : State} (hw : decodeCmd w = .instr i) (h : exec i s = .next t) :
    Served s (.cmd w) t := by
  have hword : encode i = .cmd16 w := encode_of_decodeCmd hw
  cases isCommand_of_decodeCmd hw with
  | clr =>
    obtain rfl : 0x0000#16 = w := Encoding.cmd16.inj hword
    rw [execClr_cases h]
    exact .clr
  | push c =>
    rcases execPush_cases h with ⟨-, rfl⟩ | ⟨hroom, rfl⟩
    · exact .error w .textOverflow
    · exact .push hw hroom
  | luc c =>
    rcases execLuc_cases h with ⟨-, rfl⟩ | ⟨y, hy, rfl⟩
    · exact .error w (.unknownSymbol c 0)
    · obtain ⟨v, hv, -, rfl⟩ := lookupChar_eq_some.mp hy
      exact .lookup w hv
  | luv v =>
    rcases execLuv_cases h with ⟨-, rfl⟩ | ⟨hv, rfl⟩
    · exact .error w .illegalOperand
    · exact .lookup w hv
  | csum m =>
    rcases execCsum_cases h with ⟨-, rfl⟩ | ⟨-, c, p, -, rfl⟩ | ⟨-, -, rfl⟩
    · exact .error w .illegalOperand
    · exact .error w (.unknownSymbol c p)
    · exact .lookup w (checksum_le _ _)
  | enc =>
    rcases execEnc_cases h with ⟨x, hx, rfl⟩ | ⟨-, rfl⟩ | ⟨c, p, -, rfl⟩
    · obtain rfl : 0x5000#16 = w := Encoding.cmd16.inj hword
      exact .enc hx
    · exact .error w .emptyInput
    · exact .error w (.invalidCharacter c p)
  | runs =>
    rcases execRuns_cases h with ⟨-, rfl⟩ | ⟨x, hx, -, rfl⟩
    · exact .error w .notReady
    · obtain rfl : 0x6000#16 = w := Encoding.cmd16.inj hword
      exact .runs hx
  | geom =>
    rcases execGeom_cases h with ⟨-, rfl⟩ | ⟨_, -, -, rfl⟩ | ⟨rs, hrs, hlegal, -, rfl⟩
    · exact .error w .notReady
    · exact .error w .invalidGeometryRequest
    · obtain rfl : 0x7000#16 = w := Encoding.cmd16.inj hword
      exact .geom hrs hlegal

/-- Every event that is served ends as `Served` says. -/
theorem serve_served {e : Event} {s t : State} (h : serve e s = .next t) : Served s e t := by
  cases e with
  | cmd w =>
    rcases serveCmd_cases h with ⟨i, hw, -, hx⟩ | ⟨_, -, rfl⟩
    · exact exec_served hw hx
    · exact .error w .illegalCommand
  | wr space index v =>
    obtain rfl : busWrite space index v s = t := Host.Outcome.next.inj h
    have typed : ConfigTyped s → ConfigTyped (busWrite space index v s) := fun hs => hs.busWrite space index v
    rcases busWrite_taken_or_refused space index v s with ⟨hv, w, h, p, f, b, heq⟩ | heq
    · rw [heq] at typed ⊢
      exact .write hv w h p f b typed
    · rw [heq]
      exact .refused space index v
  | rd space index =>
    obtain rfl : busRead space index s = t := Host.Outcome.next.inj h
    exact .read space index
  | reset =>
    obtain rfl : serveReset s = t := Host.Outcome.next.inj h
    exact .reset

/-! ## What an event leaves unchanged -/

/-- No event changes the parameters or what the host has issued after it (log 4, log 18). -/
theorem Served.cfg_input {s t : State} {e : Event} (h : Served s e t) : t.cfg = s.cfg ∧ t.input = s.input := by
  cases h with
  | error w r => exact ⟨errorFlags_cfg r s, errorFlags_input r s⟩
  | _ => exact ⟨rfl, rfl⟩

/-- A command answers with the error record that it leaves (10_state.md R21). -/
theorem Served.resp_of_cmd {s t : State} {w : CmdWord} (h : Served s (.cmd w) t) : t.resp = some (.cmd t.err) := by
  cases h <;> rfl

/-- Only a typed write and reset touch the configuration (10_state.md R25, R26). -/
theorem Served.configuration {s t : State} {e : Event} (h : Served s e t) :
    configuration t = configuration s ∨ (∃ space index v, e = .wr space index v ∧ IsConfigWrite s.cfg space index v) ∨
      e = .reset := by
  cases h with
  | error w r => exact .inl (by simp [Claims.configuration])
  | write hv => exact .inr (.inl ⟨_, _, _, rfl, hv⟩)
  | reset => exact .inr (.inr rfl)
  | _ => exact .inl rfl

/-- Only `PUSH`, `CLR` and reset touch the text (10_state.md R16). -/
theorem Served.txt {s t : State} {e : Event} (h : Served s e t) :
    t.txt = s.txt ∨ (∃ w c, e = .cmd w ∧ decodeCmd w = .instr (.push c) ∧ t.txt = s.txt ++ [c]) ∨
      (e = .cmd 0x0000#16 ∧ t.txt = []) ∨ (e = .reset ∧ t.txt = []) := by
  cases h with
  | error w r => exact .inl (errorFlags_txt r s)
  | clr => exact .inr (.inr (.inl ⟨rfl, rfl⟩))
  | push hw => exact .inr (.inl ⟨_, _, rfl, hw, rfl⟩)
  | reset => exact .inr (.inr (.inr ⟨rfl, rfl⟩))
  | _ => exact .inl rfl

/-- An event other than `ENC` keeps the encoding or takes it away (10_state.md R17). -/
theorem Served.enc_kept {s t : State} {e : Event} (h : Served s e t) :
    t.enc = s.enc ∨ t.enc = none ∨ e = .cmd 0x5000#16 := by
  cases h with
  | error w r => exact (errorFlags_enc r s).imp id fun hr => .inl hr.1
  | clr | push | reset => exact .inr (.inl rfl)
  | enc => exact .inr (.inr rfl)
  | _ => exact .inl rfl

/-- An event other than `RUNS` keeps the runs or takes them away (10_state.md R18). -/
theorem Served.runs_kept {s t : State} {e : Event} (h : Served s e t) :
    t.runs = s.runs ∨ t.runs = none ∨ e = .cmd 0x6000#16 := by
  cases h with
  | error w r => exact (errorFlags_runs r s).imp id fun hr => .inl hr.1
  | clr | push | enc | reset => exact .inr (.inl rfl)
  | runs => exact .inr (.inr rfl)
  | _ => exact .inl rfl

/-- An event other than `GEOM` keeps the geometry or takes it away (10_state.md R19). -/
theorem Served.geo_kept {s t : State} {e : Event} (h : Served s e t) :
    t.geo = s.geo ∨ t.geo = none ∨ e = .cmd 0x7000#16 := by
  cases h with
  | error w r => exact (errorFlags_geo r s).imp id .inl
  | clr | push | enc | runs | write | reset => exact .inr (.inl rfl)
  | geom => exact .inr (.inr rfl)
  | _ => exact .inl rfl

end Sys2Proof.Machine

/-! SUPPORT. What each state operation does to the invariant, and what the invariant says of the results. -/

namespace Sys2Proof.Machine

/-! ## One rule per operation -/

theorem StateInv.finish {s : State} (h : StateInv s) (r : CmdResult) : StateInv (finish r s) := { h with }

theorem StateInv.clearLookup {s : State} (h : StateInv s) : StateInv (clearLookup s) :=
  { h with lookup := by rintro y ⟨⟩ }

theorem StateInv.clearGeometry {s : State} (h : StateInv s) : StateInv (clearGeometry s) :=
  { h with geometry := by rintro g ⟨⟩ }

theorem StateInv.clearResults {s : State} (h : StateInv s) : StateInv (clearResults s) :=
  { h with encoding := by rintro x ⟨⟩, runs := by rintro rs ⟨⟩, geometry := by rintro g ⟨⟩ }

theorem StateInv.errorFlags {s : State} (h : StateInv s) (r : CmdResult) : StateInv (errorFlags r s) := by
  cases r with
  | emptyInput | invalidCharacter => exact h.clearResults
  | unknownSymbol | illegalOperand => exact h.clearLookup
  | invalidGeometryRequest => exact h.clearGeometry
  | ok | illegalCommand | notReady | textOverflow => exact h

theorem StateInv.emptyText {s : State} (h : StateInv s) (henc : s.enc = none) : StateInv (emptyText s) :=
  { h with textFits := fun n _ => Nat.zero_le n, encoding := by intro x hx; cases henc.symm.trans hx }

theorem StateInv.appendChar {s : State} (h : StateInv s) (henc : s.enc = none) (hroom : textFull s = false) (c : Code) :
    StateInv (appendChar c s) :=
  { h with
    textFits := by
      intro n hn
      have hlt : s.txt.length < n := textFull_eq_false.mp hroom n hn
      simpa using hlt
    encoding := by intro x hx; cases henc.symm.trans hx }

theorem StateInv.writeLookup {s : State} (h : StateInv s) {v : Nat} (hv : v ≤ 46) : StateInv (writeLookup (symbolAt v) s) :=
  { h with lookup := by rintro y ⟨⟩; exact ⟨v, hv, rfl⟩ }

theorem StateInv.writeEncoded {s : State} (h : StateInv s) {x : Encoded} (hx : encodeText s.txt = .ok x) :
    StateInv (writeEncoded x s) :=
  { h with encoding := by rintro y ⟨⟩; exact hx, runs := by rintro rs ⟨⟩, geometry := by rintro g ⟨⟩ }

theorem StateInv.writeRuns {s : State} (h : StateInv s) {x : Encoded} (hx : s.enc = some x) :
    StateInv (writeRuns (runsOf x.bits) s) :=
  { h with runs := by rintro rs ⟨⟩; exact ⟨x, hx, rfl⟩, geometry := by rintro g ⟨⟩ }

theorem StateInv.writeGeometry {s : State} (h : StateInv s) {rs : List Run} (hrs : s.runs = some rs)
    (hlegal : legalRequest (numDomain s.cfg.num) s.width s.height s.padding = true) :
    StateInv (writeGeometry (geometryOf rs s) s) :=
  { h with geometry := by rintro g ⟨⟩; exact ⟨rs, hrs, hlegal, rfl⟩ }

/-- The geometry of the old configuration goes with it (10_state.md R28). -/
theorem StateInv.reconfigure {s : State} (h : StateInv s) {wd ht pd : Number} {f : Colour} {b : Option Colour}
    (typed : ConfigTyped (reconfigure wd ht pd f b s)) : StateInv (reconfigure wd ht pd f b s) :=
  { h with geometry := by rintro g ⟨⟩, config := typed }

/-- After reset there is no result, and the configuration is the block's own default (10_state.md table R29-T). -/
theorem stateInv_afterReset (c : Config) : StateInv (State.afterReset c) where
  textFits := fun n _ => Nat.zero_le n
  lookup := by rintro y ⟨⟩
  encoding := by rintro x ⟨⟩
  runs := by rintro rs ⟨⟩
  geometry := by rintro g ⟨⟩
  config :=
    have ⟨hwidth, hheight, hpadding⟩ := isNum_resetValues c.num
    ⟨hwidth, hheight, hpadding, isColour_default c.colour, rfl⟩

/-! ## One event -/

/-- Serving an event keeps the invariant. -/
theorem Served.stateInv {s t : State} {e : Event} (h : Served s e t) (hs : StateInv s) : StateInv t := by
  cases h with
  | error w r => exact (hs.errorFlags r).finish r
  | clr => exact (hs.clearResults.clearLookup.emptyText rfl).finish .ok
  | push hw room => exact (hs.clearResults.appendChar rfl room _).finish .ok
  | lookup w hv => exact (hs.writeLookup hv).finish .ok
  | enc hx => exact (hs.writeEncoded hx).finish .ok
  | runs hx => exact (hs.writeRuns hx).finish .ok
  | geom hrs legal => exact (hs.writeGeometry hrs legal).finish .ok
  | write hv w h p f b typed => exact hs.reconfigure (typed hs.config)
  | refused | read => exact { hs with }
  | reset => exact { stateInv_afterReset s.cfg with }

/-! ## The chain of results -/

theorem StateInv.runv_of_geov {s : State} (h : StateInv s) (hg : geov s = true) : runv s = true := by
  obtain ⟨g, hg⟩ := Option.isSome_iff_exists.mp hg
  obtain ⟨rs, hrs, -⟩ := h.geometry g hg
  exact Option.isSome_of_eq_some hrs

theorem StateInv.encv_of_runv {s : State} (h : StateInv s) (hr : runv s = true) : encv s = true := by
  obtain ⟨rs, hrs⟩ := Option.isSome_iff_exists.mp hr
  obtain ⟨x, hx, -⟩ := h.runs rs hrs
  exact Option.isSome_of_eq_some hx

theorem StateInv.txt_ne_nil_of_encv {s : State} (h : StateInv s) (he : encv s = true) : s.txt ≠ [] := by
  obtain ⟨x, hx⟩ := Option.isSome_iff_exists.mp he
  exact (encodeText_ok (h.encoding x hx)).1

/-- The run widths sum to `NBITS` (44_geometric_scaler.md R161; log 15). -/
theorem StateInv.totalWidth {s : State} (h : StateInv s) {rs : List Run} (hrs : s.runs = some rs) :
    totalWidth rs = (s.txt.length + 4) * 9 + 1 := by
  obtain ⟨x, hx, rfl⟩ := h.runs rs hrs
  rw [totalWidth_runsOf, h.bits_length hx]

end Sys2Proof.Machine

/-! SUPPORT. The outcomes that the flags depend on, and the fields of `STATUS`. -/

namespace Sys2Proof.Machine

/-! ## Outcomes of a command word -/

/-- How `LUC`, `LUV` and `CSUM` end: with a symbol, or with an error that clears `LKV`. -/
theorem exec_lookup_cases {i : Instr} {x : Imm8} {s t : State} (hi : i = .luc x ∨ i = .luv x ∨ i = .csum x)
    (h : exec i s = .next t) :
    (∃ y, t = finish .ok (writeLookup y s)) ∨ ∃ r, r ≠ .ok ∧ t = finish r (clearLookup s) := by
  rcases hi with rfl | rfl | rfl
  · rcases execLuc_cases h with ⟨-, ht⟩ | ⟨y, -, ht⟩
    · exact .inr ⟨.unknownSymbol x 0, nofun, ht⟩
    · exact .inl ⟨y, ht⟩
  · rcases execLuv_cases h with ⟨-, ht⟩ | ⟨-, ht⟩
    · exact .inr ⟨.illegalOperand, nofun, ht⟩
    · exact .inl ⟨_, ht⟩
  · rcases execCsum_cases h with ⟨-, ht⟩ | ⟨-, c, p, -, ht⟩ | ⟨-, -, ht⟩
    · exact .inr ⟨.illegalOperand, nofun, ht⟩
    · exact .inr ⟨.unknownSymbol c p, nofun, ht⟩
    · exact .inl ⟨_, ht⟩

/-- An illegal word is answered before anything else (60_exceptions.md R203). -/
theorem serve_illegal {w : CmdWord} {why : Illegal} (h : decodeCmd w = .illegal why) (s : State) :
    serve (.cmd w) s = .next (finish .illegalCommand s) := by
  simp only [serve, serveCmd, h]
  rfl

/-! ## The fields of `STATUS` (10_state.md R21) -/

@[simp] theorem statusWord_err (s : State) : (statusWord s).extractLsb' 0 4 = s.err.code := by
  apply BitVec.eq_of_getLsbD_eq
  intro i hi
  simp only [statusWord, BitVec.getLsbD_extractLsb', BitVec.getLsbD_append]
  simp [hi, show i < 5 by omega, show i < 6 by omega, show i < 7 by omega, show i < 8 by omega]

theorem statusWord_flags (s : State) :
    (statusWord s).getLsbD 4 = lkv s ∧ (statusWord s).getLsbD 5 = encv s ∧ (statusWord s).getLsbD 6 = runv s ∧
      (statusWord s).getLsbD 7 = geov s := by
  simp only [statusWord, BitVec.getLsbD_append]
  simp

theorem statusWord_high (s : State) : (statusWord s).extractLsb' 8 8 = 0#8 := by
  apply BitVec.eq_of_getLsbD_eq
  intro i hi
  simp only [statusWord, BitVec.getLsbD_extractLsb', BitVec.getLsbD_append]
  simp

end Sys2Proof.Machine

/-! SUPPORT. When the model stops (log 14). -/

namespace Sys2Proof.Machine

theorem execRuns_of_no_bits {s : State} {x : Encoded} (hx : s.enc = some x) (hbits : x.bits = []) :
    execRuns s = .fault .noModules := by simp [execRuns, hx, hbits]

theorem execGeom_of_no_width {s : State} {rs : List Run} (hrs : s.runs = some rs) (hwidth : totalWidth rs = 0)
    (hlegal : legalRequest (numDomain s.cfg.num) s.width s.height s.padding = true) : execGeom s = .fault .noModules := by
  simp [execGeom, hrs, hwidth, hlegal]

end Sys2Proof.Machine

namespace Sys2Proof.Proofs

open Sys2Proof.Machine Sys2Proof.Claims

/-- Settles O8: no result is valid after reset, and the defaults are values of every `NUM` and `COLOUR`. -/
theorem resetMeetsTheInvariant : Obligations.ResetMeetsTheInvariant := stateInv_afterReset

/-- Settles O9: an idle step changes nothing, and each way to serve an event keeps the invariant. -/
theorem stepKeepsTheInvariant : Obligations.StepKeepsTheInvariant := by
  intro s t hs h
  rcases step_cases h with ⟨-, rfl⟩ | ⟨e, rest, -, hserve⟩
  · exact hs
  · exact (serve_served hserve).stateInv { hs with }

/-- Settles O10: each result is of the one before it, and an encoded text is not empty. -/
theorem flagsFormAChain : Obligations.FlagsFormAChain := by
  intro s hs
  exact ⟨hs.runv_of_geov, hs.encv_of_runv, fun he => List.length_pos_iff.mpr (hs.txt_ne_nil_of_encv he)⟩

/-- Settles O14: the fields by the widths of the parts, and the record by what a transaction does to it. -/
theorem statusWordIsAssembled : Obligations.StatusWordIsAssembled := by
  refine ⟨fun s => ?_, fun s => rfl, fun s v => rfl, fun s w t h => ?_, fun c => ?_, fun s space index v =>
    ⟨busWrite_err space index v s, busRead_err space index s⟩⟩
  · obtain ⟨h4, h5, h6, h7⟩ := statusWord_flags s
    exact ⟨statusWord_err s, h4, h5, h6, h7, statusWord_high s⟩
  · exact ⟨_, (serve_served h).resp_of_cmd, statusWord_err t⟩
  · exact statusWord_err _

/-- Settles O15: the outcomes of each command, with what its last operation does to the flags. -/
theorem flagWritesByOutcome : Obligations.FlagWritesByOutcome := by
  refine ⟨fun s t h => ?clr, fun cc s t h => ?push, fun i x s t hi h => ?lookup, fun s t h => ?enc, fun s t h => ?runs,
    fun s t h => ?geom, fun w why s t hw h => ?illegal, fun space index v s h => ?written, fun space index v s h => ?refused,
    fun space index s => ⟨_, rfl⟩⟩
  case clr =>
    rw [execClr_cases h]
    exact ⟨rfl, rfl⟩
  case push =>
    rcases execPush_cases h with ⟨-, rfl⟩ | ⟨-, rfl⟩
    · exact .inr ⟨rfl, rfl⟩
    · exact .inl ⟨rfl, rfl⟩
  case lookup =>
    rcases exec_lookup_cases hi h with ⟨y, rfl⟩ | ⟨r, hr, rfl⟩
    · exact ⟨fun _ => rfl, fun hne => absurd rfl hne⟩
    · exact ⟨fun he => absurd he hr, fun _ => rfl⟩
  case enc =>
    rcases execEnc_cases h with ⟨x, -, rfl⟩ | ⟨-, rfl⟩ | ⟨c, p, -, rfl⟩
    · exact .inl ⟨rfl, rfl⟩
    · exact .inr ⟨.inl rfl, rfl⟩
    · exact .inr ⟨.inr ⟨c, p, rfl⟩, rfl⟩
  case runs =>
    rcases execRuns_cases h with ⟨-, rfl⟩ | ⟨x, -, -, rfl⟩
    · exact .inr ⟨rfl, rfl⟩
    · exact .inl ⟨rfl, rfl⟩
  case geom =>
    rcases execGeom_cases h with ⟨-, rfl⟩ | ⟨rs, -, -, rfl⟩ | ⟨rs, -, -, -, rfl⟩
    · exact .inr (.inl ⟨rfl, rfl⟩)
    · exact .inr (.inr ⟨rfl, rfl⟩)
    · exact .inl ⟨rfl, rfl⟩
  case illegal =>
    obtain rfl := Host.Outcome.next.inj ((serve_illegal hw s).symm.trans h)
    exact ⟨rfl, rfl⟩
  case written =>
    rcases busWrite_taken_or_refused space index v s with ⟨-, _, _, _, _, _, e⟩ | e
    · exact congrArg flags e
    · rw [e] at h
      cases h
  case refused =>
    rcases busWrite_taken_or_refused space index v s with ⟨-, _, _, _, _, _, e⟩ | e
    · rw [e] at h
      cases h
    · exact e

/-- Settles O27: a valid bit buffer holds `(LEN+4)*9+1` modules, and valid runs cover as many. -/
theorem noModulesStops : Obligations.NoModulesStops := by
  refine ⟨fun s x hx hbits => ⟨execRuns_of_no_bits hx hbits, fun hs => ?_⟩,
    fun s rs hrs hwidth hlegal => ⟨execGeom_of_no_width hrs hwidth hlegal, fun hs => ?_⟩⟩
  · have hlen := hs.bits_length hx
    rw [hbits] at hlen
    cases hlen
  · have hsum := hs.totalWidth hrs
    omega

/-- Settles O53: by what each event can do to the text and to each result. -/
theorem buffersWrittenOnlyByTheirCommands : Obligations.BuffersWrittenOnlyByTheirCommands := by
  refine ⟨fun s e t h hne => (serve_served h).txt.resolve_left hne, fun s e t a b h ha hb hne => ?_,
    fun s e t a b h ha hb hne => ?_, fun s e t a b h ha hb hne => ?_⟩
  · have hkept := (serve_served h).enc_kept
    simpa [ha, hb, Ne.symm hne] using hkept
  · have hkept := (serve_served h).runs_kept
    simpa [ha, hb, Ne.symm hne] using hkept
  · have hkept := (serve_served h).geo_kept
    simpa [ha, hb, Ne.symm hne] using hkept

/-- Settles O54: by what each event can do to the configuration. -/
theorem configurationChangesOnlyByTypedWrites : Obligations.ConfigurationChangesOnlyByTypedWrites := by
  refine ⟨fun s e t h hne => (serve_served h).configuration.resolve_left hne, fun s w t h => ?_,
    fun s e t h => (serve_served h).cfg_input, fun s space index v hv => ?_⟩
  · rcases (serve_served h).configuration with hsame | ⟨_, _, _, hwr, -⟩ | hreset
    · simpa [configuration] using hsame
    · cases hwr
    · cases hreset
  · exact (busWrite_taken_or_refused space index v s).resolve_left fun htaken => hv htaken.1

end Sys2Proof.Proofs

/-! SUPPORT. What each address reads as, one rule per space. -/

namespace Sys2Proof.Machine

open Sys2Proof.Claims

@[simp] theorem valueOrNone_some (x : Value) : valueOrNone (some x) = .rdOk x := rfl
@[simp] theorem valueOrNone_none : valueOrNone none = .noValue := rfl

/-! ## The flags as absent results (log 12) -/

theorem lkv_eq_false {s : State} : lkv s = false ↔ s.lookup = none := by simp [lkv_eq]
theorem encv_eq_false {s : State} : encv s = false ↔ s.enc = none := by simp [encv_eq]
theorem runv_eq_false {s : State} : runv s = false ↔ s.runs = none := by simp [runv_eq]
theorem geov_eq_false {s : State} : geov s = false ↔ s.geo = none := by simp [geov_eq]

/-! ## The registers (20_memory.md R43) -/

theorem readSpace_errorPayload {s : State} {c : Code} {p : Nat}
    (h : s.err = .invalidCharacter c p ∨ s.err = .unknownSymbol c p) :
    readSpace 0 1 s = .rdOk (.code c) ∧ readSpace 0 2 s = .rdOk (.nat p) := by
  rcases h with h | h <;> simp [readSpace, readReg, h, CmdResult.char, CmdResult.position]

/-- Only codes 2 and 3 record a character and a position (10_state.md R22). -/
theorem readSpace_noErrorPayload {s : State} (h2 : s.err.code ≠ 2#4) (h3 : s.err.code ≠ 3#4) :
    readSpace 0 1 s = .noValue ∧ readSpace 0 2 s = .noValue := by
  cases h : s.err with
  | invalidCharacter c p => exact absurd (congrArg CmdResult.code h) h2
  | unknownSymbol c p => exact absurd (congrArg CmdResult.code h) h3
  | _ => simp [readSpace, readReg, h, CmdResult.char, CmdResult.position]

theorem readSpace_lookup {s : State} {y : Symbol} (h : s.lookup = some y) :
    readSpace 0 4 s = .rdOk (.value y.val) ∧ readSpace 0 5 s = .rdOk (.code y.chr) ∧
      readSpace 0 6 s = .rdOk (.pattern y.pat) := by simp [readSpace, readReg, h]

theorem readSpace_noLookup {s : State} (h : s.lookup = none) :
    readSpace 0 4 s = .noValue ∧ readSpace 0 5 s = .noValue ∧ readSpace 0 6 s = .noValue := by
  simp [readSpace, readReg, h]

theorem readSpace_enc {s : State} {x : Encoded} (h : s.enc = some x) :
    readSpace 0 7 s = .rdOk (.value x.csym) ∧ readSpace 0 8 s = .rdOk (.value x.ksym) ∧
      readSpace 0 9 s = .rdOk (.nat x.bits.length) := by simp [readSpace, readReg, h]

theorem readSpace_noEnc {s : State} (h : s.enc = none) :
    readSpace 0 7 s = .noValue ∧ readSpace 0 8 s = .noValue ∧ readSpace 0 9 s = .noValue := by
  simp [readSpace, readReg, h]

theorem readSpace_runs {s : State} {rs : List Run} (h : s.runs = some rs) :
    readSpace 0 10 s = .rdOk (.nat rs.length) := by simp [readSpace, readReg, h]

theorem readSpace_noRuns {s : State} (h : s.runs = none) : readSpace 0 10 s = .noValue := by
  simp [readSpace, readReg, h]

theorem readSpace_geo {s : State} {g : Geometry Number} (h : s.geo = some g) :
    readSpace 0 11 s = .rdOk (.nat g.rects.length) ∧ readSpace 0 12 s = .rdOk (.num g.canvasW) ∧
      readSpace 0 13 s = .rdOk (.num g.canvasH) := by simp [readSpace, readReg, h]

theorem readSpace_noGeo {s : State} (h : s.geo = none) :
    readSpace 0 11 s = .noValue ∧ readSpace 0 12 s = .noValue ∧ readSpace 0 13 s = .noValue := by
  simp [readSpace, readReg, h]

theorem readSpace_unmappedRegister (s : State) {index : Nat} (h : index = 14 ∨ index = 15 ∨ 21 ≤ index) :
    readSpace 0 index s = .badAddress := by
  rcases h with rfl | rfl | h
  · rfl
  · rfl
  · obtain ⟨k, rfl⟩ := Nat.exists_eq_add_of_le' h
    rfl

/-! ## The ROMs (20_memory.md R43) -/

theorem readSpace_symrom (s : State) {index : Nat} {p : Pattern} (h : symrom index = some p) :
    index ≤ 47 ∧ readSpace 1 index s = .rdOk (.pattern p) := by
  refine ⟨?_, by simp [readSpace, readRom, h]⟩
  by_contra hlt
  cases (symrom_eq_none (by omega)).symm.trans h

theorem readSpace_chrrom (s : State) {index : Nat} {c : Code} (h : chrrom index = some c) :
    index ≤ 47 ∧ readSpace 2 index s = .rdOk (.code c) := by
  refine ⟨?_, by simp [readSpace, readRom, h]⟩
  by_contra hlt
  cases (chrrom_eq_none (by omega)).symm.trans h

theorem readSpace_beyondRom (s : State) {index : Nat} (h : 48 ≤ index) :
    readSpace 1 index s = .badAddress ∧ readSpace 2 index s = .badAddress := by
  simp [readSpace, readRom, symrom_eq_none h, chrrom_eq_none h]

/-! ## The buffers (20_memory.md R43; log 17) -/

theorem readSpace_beyondCapacity {s : State} {n : Nat} (index : Nat) (hn : s.cfg.textMax = some n) :
    (n ≤ index → readSpace 3 index s = .badAddress) ∧ ((n + 4) * 9 + 1 ≤ index → readSpace 4 index s = .badAddress) ∧
      (6 * (n + 4) + 1 ≤ index → readSpace 5 index s = .badAddress ∧ readSpace 6 index s = .badAddress) ∧
      (3 * (n + 4) + 1 ≤ index → readSpace 7 index s = .badAddress ∧ readSpace 8 index s = .badAddress) :=
  ⟨fun h => readBuffer_of_ge _ hn h, fun h => readBuffer_of_ge _ hn h,
    fun h => ⟨readBuffer_of_ge _ hn h, readBuffer_of_ge _ hn h⟩,
    fun h => ⟨readBuffer_of_ge _ hn h, readBuffer_of_ge _ hn h⟩⟩

theorem readSpace_txt {s : State} {index : Nat} (h : ∀ n, s.cfg.textMax = some n → index < n) :
    readSpace 3 index s = valueOrNone ((s.txt[index]?).map .code) := readBuffer_of_lt _ h

theorem readSpace_bits {s : State} {index : Nat} (h : ∀ n, s.cfg.textMax = some n → index < (n + 4) * 9 + 1) :
    readSpace 4 index s = valueOrNone ((s.enc.bind (fun x => x.bits[index]?)).map .bit) := readBuffer_of_lt _ h

theorem readSpace_runBuffers {s : State} {index : Nat} (h : ∀ n, s.cfg.textMax = some n → index < 6 * (n + 4) + 1) :
    readSpace 5 index s = valueOrNone ((s.runs.bind (fun rs => rs[index]?)).map (fun r => .bit r.fill)) ∧
      readSpace 6 index s = valueOrNone ((s.runs.bind (fun rs => rs[index]?)).map (fun r => .nat r.width)) :=
  ⟨readBuffer_of_lt _ h, readBuffer_of_lt _ h⟩

theorem readSpace_rectBuffers {s : State} {index : Nat} (h : ∀ n, s.cfg.textMax = some n → index < 3 * (n + 4) + 1) :
    readSpace 7 index s = valueOrNone ((s.geo.bind (fun g => g.rects[index]?)).map (fun r => .num r.x)) ∧
      readSpace 8 index s = valueOrNone ((s.geo.bind (fun g => g.rects[index]?)).map (fun r => .num r.w)) :=
  ⟨readBuffer_of_lt _ h, readBuffer_of_lt _ h⟩

theorem readSpace_unmappedSpace (s : State) (index : Nat) {space : Nat} (h : 9 ≤ space) :
    readSpace space index s = .badAddress := by
  obtain ⟨k, rfl⟩ := Nat.exists_eq_add_of_le' h
  rfl

/-! ## What a transaction leaves to be read -/

/-- `RD` changes the response only, and responds what the address reads as. -/
theorem busRead_of_resp {space index : Nat} {s : State} {r : Response} (h : (busRead space index s).resp = some r) :
    busRead space index s = { s with resp := some r } := by
  rw [← h]
  rfl

/-! ## The writes (20_memory.md R42) -/

theorem busWrite_width {s : State} {x : Number} (h : isNum s.cfg.num x = true) :
    busWrite 0 16 (.num x) s = { s with width := x, geo := none, resp := some .wrOk } := by
  simp [busWrite, writeReg, regSpace, h, clearGeometry]

theorem busWrite_height {s : State} {x : Number} (h : isNum s.cfg.num x = true) :
    busWrite 0 17 (.num x) s = { s with height := x, geo := none, resp := some .wrOk } := by
  simp [busWrite, writeReg, regSpace, h, clearGeometry]

theorem busWrite_padding {s : State} {x : Number} (h : isNum s.cfg.num x = true) :
    busWrite 0 18 (.num x) s = { s with padding := x, geo := none, resp := some .wrOk } := by
  simp [busWrite, writeReg, regSpace, h, clearGeometry]

theorem busWrite_fillColor {s : State} {c : Colour} (h : isColour s.cfg.colour c = true) :
    busWrite 0 19 (.colour c) s = { s with fillColor := c, geo := none, resp := some .wrOk } := by
  simp [busWrite, writeReg, regSpace, h, clearGeometry]

theorem busWrite_bgColor {s : State} {c : Option Colour} (h : c.all (isColour s.cfg.colour) = true) :
    busWrite 0 20 (.bgColour c) s = { s with bgColor := c, geo := none, resp := some .wrOk } := by
  simp [busWrite, writeReg, regSpace, h, clearGeometry]

/-- A write that is not one of a configuration register with a value of its type is refused. -/
theorem busWrite_refused {s : State} {space index : Nat} {v : Value} (h : ¬ IsConfigWrite s.cfg space index v) :
    busWrite space index v s = { s with resp := some .badAddress } :=
  (busWrite_taken_or_refused space index v s).resolve_left fun htaken => h htaken.1

/-- The two responses of a `WR`. -/
theorem busWrite_ok_or_refused (space index : Nat) (v : Value) (s : State) :
    (busWrite space index v s).resp = some .wrOk ∨ busWrite space index v s = { s with resp := some .badAddress } :=
  (busWrite_taken_or_refused space index v s).imp_left fun ⟨_, _, _, _, _, _, e⟩ => congrArg State.resp e

/-- Only space 0 at 16 to 20 holds configuration registers (10_state.md, table R20-T). -/
theorem configWrite_address {cfg : Config} {space index : Nat} {v : Value} (h : IsConfigWrite cfg space index v) :
    space = 0 ∧ 16 ≤ index ∧ index ≤ 20 := by
  obtain ⟨hs, ⟨hi, -⟩ | ⟨hi, -⟩ | ⟨hi, -⟩⟩ := h <;> omega

/-- A `WR` that is taken leaves its value in the register, and taken again it leaves the same (20_memory.md R49, R54). -/
theorem busWrite_stores_once {s : State} {space index : Nat} {v : Value} (h : IsConfigWrite s.cfg space index v) :
    readSpace space index (busWrite space index v s) = .rdOk v ∧
      busWrite space index v (busWrite space index v s) = busWrite space index v s := by
  obtain ⟨rfl, ⟨rfl | rfl | rfl, x, rfl, hx⟩ | ⟨rfl, c, rfl, hc⟩ | ⟨rfl, c, rfl, hc⟩⟩ := h
  · rw [busWrite_width hx]
    exact ⟨rfl, busWrite_width hx⟩
  · rw [busWrite_height hx]
    exact ⟨rfl, busWrite_height hx⟩
  · rw [busWrite_padding hx]
    exact ⟨rfl, busWrite_padding hx⟩
  · rw [busWrite_fillColor hc]
    exact ⟨rfl, busWrite_fillColor hc⟩
  · rw [busWrite_bgColor hc]
    exact ⟨rfl, busWrite_bgColor hc⟩

end Sys2Proof.Machine

namespace Sys2Proof.Proofs

open Sys2Proof.Machine Sys2Proof.Claims

/-- Settles O49: one rule per register, and every other address is refused. -/
theorem writeTransactions : Obligations.WriteTransactions := by
  intro s
  refine ⟨fun x hx => ⟨busWrite_width hx, busWrite_height hx, busWrite_padding hx⟩, fun c hc => busWrite_fillColor hc,
    fun c hc => busWrite_bgColor hc, isColour_default _, fun x => rfl, fun space index v haddr => ?_⟩
  exact busWrite_refused fun hv => haddr (configWrite_address hv)

/-- Settles O50: one rule per space for what is read, and the elements of each buffer below its capacity. -/
theorem readTransactions : Obligations.ReadTransactions := by
  intro s
  refine ⟨⟨rfl, rfl, rfl, rfl, rfl, rfl, rfl⟩, fun c p h => readSpace_errorPayload h, readSpace_noErrorPayload,
    fun y hy => readSpace_lookup hy, fun h => readSpace_noLookup (lkv_eq_false.mp h),
    fun x hx => readSpace_enc hx, fun h => readSpace_noEnc (encv_eq_false.mp h),
    fun rs hrs => readSpace_runs hrs, fun h => readSpace_noRuns (runv_eq_false.mp h),
    fun g hg => readSpace_geo hg, fun h => readSpace_noGeo (geov_eq_false.mp h),
    fun index h => readSpace_unmappedRegister s h, fun index p h => readSpace_symrom s h,
    fun index c h => readSpace_chrrom s h, fun index h => readSpace_beyondRom s h,
    fun n index hn => readSpace_beyondCapacity index hn, fun index hcap => ?txt, fun index hcap => ?bits,
    fun index hcap => ?runs, fun index hcap => ?rects, fun space index h => readSpace_unmappedSpace s index h,
    fun space index => rfl⟩
  case txt =>
    rw [readSpace_txt hcap]
    exact ⟨fun c hc => by simp [hc], fun hlen => by simp [hlen]⟩
  case bits =>
    rw [readSpace_bits hcap]
    exact ⟨fun x b hx hb => by simp [hx, hb], fun x hx hlen => by simp [hx, hlen], fun h => by simp [encv_eq_false.mp h]⟩
  case runs =>
    obtain ⟨hfill, hwidth⟩ := readSpace_runBuffers (s := s) hcap
    rw [hfill, hwidth]
    exact ⟨fun rs r hrs hr => by simp [hrs, hr], fun rs hrs hlen => by simp [hrs, hlen],
      fun h => by simp [runv_eq_false.mp h]⟩
  case rects =>
    obtain ⟨hx, hw⟩ := readSpace_rectBuffers (s := s) hcap
    rw [hx, hw]
    exact ⟨fun g r hg hr => by simp [hg, hr], fun g hg hlen => by simp [hg, hlen],
      fun h => by simp [geov_eq_false.mp h]⟩

/-- Settles O51: a write is taken with `OK` or refused, and a read changes its response only. -/
theorem busErrorsChangeNothing : Obligations.BusErrorsChangeNothing := by
  refine ⟨rfl, rfl, fun s space index v h => ?badAddress, fun s space index v h => ?noValue,
    fun s space index h => busRead_of_resp h, fun s space index h => busRead_of_resp h⟩
  case badAddress =>
    rcases busWrite_ok_or_refused space index v s with hok | hrefused
    · cases hok.symm.trans h
    · exact hrefused
  case noValue =>
    rcases busWrite_ok_or_refused space index v s with hok | hrefused
    · cases hok.symm.trans h
    · rw [hrefused] at h
      cases h

/-- Settles O52: a write is one of a configuration register with a value of its type, or refused whatever the response
before it; no read shows the response. -/
theorem readGivesTheLatestWrite : Obligations.ReadGivesTheLatestWrite := by
  refine ⟨fun s index v h => ?_, fun s space index v => ?_, fun s space index => rfl⟩
  · by_cases hv : IsConfigWrite s.cfg 0 index v
    · exact (busWrite_stores_once hv).1
    · rw [busWrite_refused hv] at h
      cases h
  · by_cases hv : IsConfigWrite s.cfg space index v
    · exact (busWrite_stores_once hv).2
    · rw [busWrite_refused hv]
      exact busWrite_refused hv

end Sys2Proof.Proofs

/-! SUPPORT. What each command can change, as fields of the state, and what an address reads as after it. -/

namespace Sys2Proof.Machine

/-! ## The fields a command can change (20_memory.md, table R56-T) -/

theorem exec_lookup_changes {i : Instr} {x : Imm8} {s t : State} (hi : i = .luc x ∨ i = .luv x ∨ i = .csum x)
    (h : exec i s = .next t) : ∃ r y, t = finish r { s with lookup := y } := by
  rcases exec_lookup_cases hi h with ⟨y, ht⟩ | ⟨r, -, ht⟩ <;> exact ⟨_, _, ht⟩

/-- `PUSH` changes no element of the text but `TXT[LEN]` (42_pattern_encoder.md R131). -/
theorem execPush_changes {c : Imm8} {s t : State} (h : execPush c s = .next t) :
    ∃ r cs x rs g, t = finish r { s with txt := cs, enc := x, runs := rs, geo := g } ∧
      ∀ index, index ≠ s.txt.length → cs[index]? = s.txt[index]? := by
  rcases execPush_cases h with ⟨-, ht⟩ | ⟨-, ht⟩
  · exact ⟨_, _, _, _, _, ht, fun _ _ => rfl⟩
  · refine ⟨_, _, _, _, _, ht, fun index hne => ?_⟩
    rcases Nat.lt_or_gt_of_ne hne with hlt | (hgt : s.txt.length < index)
    · exact List.getElem?_append_left hlt
    · simp [hgt, hgt.le]

theorem execClr_changes {s t : State} (h : execClr s = .next t) :
    ∃ r cs y x rs g, t = finish r { s with txt := cs, lookup := y, enc := x, runs := rs, geo := g } :=
  ⟨_, _, _, _, _, _, execClr_cases h⟩

theorem execEnc_changes {s t : State} (h : execEnc s = .next t) :
    ∃ r x rs g, t = finish r { s with enc := x, runs := rs, geo := g } := by
  rcases execEnc_cases h with ⟨x, -, ht⟩ | ⟨-, ht⟩ | ⟨c, p, -, ht⟩ <;> exact ⟨_, _, _, _, ht⟩

theorem execRuns_changes {s t : State} (h : execRuns s = .next t) :
    ∃ r rs g, t = finish r { s with runs := rs, geo := g } := by
  rcases execRuns_cases h with ⟨-, ht⟩ | ⟨x, -, -, ht⟩ <;> exact ⟨_, _, _, ht⟩

theorem execGeom_changes {s t : State} (h : execGeom s = .next t) : ∃ r g, t = finish r { s with geo := g } := by
  rcases execGeom_cases h with ⟨-, ht⟩ | ⟨rs, -, -, ht⟩ | ⟨rs, -, -, -, ht⟩ <;> exact ⟨_, _, ht⟩

/-! ## What an address shows -/

/-- An address other than those of `STATUS`, `ECHAR` and `EPOS` reads the same when the part of the text or of the results that it
shows stays. -/
theorem readSpace_finish {s : State} {space index : Nat} (r : CmdResult) (cs : List Code) (y : Option Symbol)
    (x : Option Encoded) (rs : Option (List Run)) (g : Option (Geometry Number)) (hrecord : ¬ (space = 0 ∧ index ≤ 2))
    (hlen : space = 0 ∧ index = 3 → cs = s.txt) (htxt : space = 3 → cs[index]? = s.txt[index]?)
    (hlookup : space = 0 ∧ 4 ≤ index ∧ index ≤ 6 → y = s.lookup)
    (henc : space = 0 ∧ 7 ≤ index ∧ index ≤ 9 ∨ space = 4 → x = s.enc)
    (hruns : space = 0 ∧ index = 10 ∨ space = 5 ∨ space = 6 → rs = s.runs)
    (hgeo : space = 0 ∧ 11 ≤ index ∧ index ≤ 13 ∨ space = 7 ∨ space = 8 → g = s.geo) :
    readSpace space index (finish r { s with txt := cs, lookup := y, enc := x, runs := rs, geo := g }) =
      readSpace space index s := by
  refine readSpace_congr space index ?_ ?_ ?_ ?_ ?_ ?_ ?_ htxt ?_ ?_ ?_ rfl rfl rfl rfl rfl rfl
  · omega
  · omega
  · exact fun hs hi => hlen ⟨hs, hi⟩
  · exact fun hs hi => hlookup (by omega)
  · exact fun hs hi => henc (by omega)
  · exact fun hs hi => hruns (by omega)
  · exact fun hs hi => hgeo (by omega)
  · exact fun hs => henc (.inr hs)
  · exact fun hs => hruns (.inr hs)
  · exact fun hs => hgeo (.inr hs)

end Sys2Proof.Machine

namespace Sys2Proof.Proofs

open Sys2Proof.Machine

/-- Settles O57: the three commands change the lookup registers and the error record only. -/
theorem frameOfLookupCommands : Obligations.FrameOfLookupCommands := by
  intro i x s t hi h
  obtain ⟨r, y, rfl⟩ := exec_lookup_changes hi h
  refine ⟨fun space index haddr => ?_, rfl, rfl⟩
  simp only [List.mem_cons, List.not_mem_nil, or_false] at haddr
  exact readSpace_finish r s.txt y s.enc s.runs s.geo (by omega) (fun _ => rfl) (fun _ => rfl) (by omega) (fun _ => rfl)
    (fun _ => rfl) (fun _ => rfl)

/-- Settles O58: `PUSH` changes the results and the end of the text, `CLR` the results and the text. -/
theorem frameOfTextCommands : Obligations.FrameOfTextCommands := by
  refine ⟨fun c s t h => ?push, fun s t h => ?clr⟩
  case push =>
    obtain ⟨r, cs, x, rs, g, rfl, hcs⟩ := execPush_changes h
    refine ⟨fun space index haddr hend hbuf => ?_, rfl, rfl⟩
    simp only [List.mem_cons, List.not_mem_nil, or_false] at haddr
    exact readSpace_finish r cs s.lookup x rs g (by omega) (by omega) (fun hs => hcs index (by omega)) (fun _ => rfl)
      (by omega) (by omega) (by omega)
  case clr =>
    obtain ⟨r, cs, y, x, rs, g, rfl⟩ := execClr_changes h
    exact ⟨fun space index haddr hbuf => readSpace_finish r cs y x rs g (by omega) (by omega) (by omega) (by omega) (by omega)
      (by omega) (by omega), rfl, rfl⟩

/-- Settles O59: each stage changes its own results and those of the stages after it. -/
theorem frameOfStageCommands : Obligations.FrameOfStageCommands := by
  refine ⟨fun s t h => ?enc, fun s t h => ?runs, fun s t h => ?geom⟩
  case enc =>
    obtain ⟨r, x, rs, g, rfl⟩ := execEnc_changes h
    refine ⟨fun space index haddr hbuf => ?_, rfl, rfl⟩
    simp only [List.mem_cons, List.not_mem_nil, or_false] at haddr
    exact readSpace_finish r s.txt s.lookup x rs g (by omega) (fun _ => rfl) (fun _ => rfl) (fun _ => rfl) (by omega)
      (by omega) (by omega)
  case runs =>
    obtain ⟨r, rs, g, rfl⟩ := execRuns_changes h
    refine ⟨fun space index haddr hbuf => ?_, rfl, rfl⟩
    simp only [List.mem_cons, List.not_mem_nil, or_false] at haddr
    exact readSpace_finish r s.txt s.lookup s.enc rs g (by omega) (fun _ => rfl) (fun _ => rfl) (fun _ => rfl) (fun _ => rfl)
      (by omega) (by omega)
  case geom =>
    obtain ⟨r, g, rfl⟩ := execGeom_changes h
    refine ⟨fun space index haddr hbuf => ?_, rfl, rfl⟩
    simp only [List.mem_cons, List.not_mem_nil, or_false] at haddr
    exact readSpace_finish r s.txt s.lookup s.enc s.runs g (by omega) (fun _ => rfl) (fun _ => rfl) (fun _ => rfl)
      (fun _ => rfl) (fun _ => rfl) (by omega)

end Sys2Proof.Proofs

/-! SUPPORT. The event by which a table row's bits reach the block (log 11). -/

namespace Sys2Proof

/-- Nine bits decode to symbol rows only (40_symbol_table.md R100). -/
theorem romIndex_of_decodeSym {p : Pattern} {i : Instr} (h : decodeSym p = .instr i) : ∃ k, i.romIndex = some k := by
  obtain ⟨r, hr, -, rfl⟩ := decodeSym_cases h
  obtain ⟨k, hk⟩ := List.mem_iff_getElem?.mp hr
  exact ⟨k, (symbolRows_index k r hk).1⟩

theorem tableEncoding_cases {nbits w : Nat} {e : Encoding} (h : tableEncoding nbits w = some e) :
    e = .cmd16 (BitVec.ofNat 16 w) ∨ e = .sym9 (BitVec.ofNat 9 w) := by
  unfold tableEncoding at h
  split at h
  · cases h
  · split at h
    · split at h
      · exact .inr (Option.some.inj h).symm
      · exact .inl (Option.some.inj h).symm
    · exact .inl (Option.some.inj h).symm

/-- A table row's bits decode in one of the two formats. -/
theorem exists_encoding_of_decodeTableWord {nbits w : Nat} {i : Instr} (h : decodeTableWord nbits w = some i) :
    ∃ e, tableEncoding nbits w = some e ∧ decode e = .instr i := by
  unfold decodeTableWord at h
  split at h
  · rename_i j hj
    cases h
    exact Option.map_eq_some_iff.mp hj
  · cases h
  · cases h

/-- A table row's bits are a symbol row or a legal command word. -/
theorem decodeTableWord_cases {nbits w : Nat} {i : Instr} (h : decodeTableWord nbits w = some i) :
    (∃ k, i.romIndex = some k) ∨ decodeCmd (BitVec.ofNat 16 w) = .instr i := by
  obtain ⟨e, he, hdecode⟩ := exists_encoding_of_decodeTableWord h
  rcases tableEncoding_cases he with rfl | rfl
  · exact .inr hdecode
  · exact .inl (romIndex_of_decodeSym hdecode)

end Sys2Proof

namespace Sys2Proof.Machine

/-- A legal word runs its command (20_memory.md R41). -/
theorem serve_cmd {w : CmdWord} {i : Instr} (h : decodeCmd w = .instr i) (s : State) : serve (.cmd w) s = exec i s := by
  simp [serve, serveCmd, h]

/-- The read of a ROM element runs its row (log 10). -/
theorem serve_rd_symrom {i : Instr} {k : Nat} (h : i.romIndex = some k) (s : State) :
    serve (.rd symromSpace k) s = exec i s := (exec_symbolRow h s).symm

/-- The event of a table row's bits runs what they decode to. -/
theorem serve_tableEvent {nbits w : Nat} {i : Instr} (h : decodeTableWord nbits w = some i) (s : State) :
    serve (tableEvent nbits w) s = exec i s := by
  obtain ⟨e, he, hdecode⟩ := exists_encoding_of_decodeTableWord h
  cases hk : i.romIndex with
  | some k =>
    have hevent : tableEvent nbits w = .rd symromSpace k := by simp [tableEvent, he, hdecode, hk]
    rw [hevent, serve_rd_symrom hk]
  | none =>
    have hevent : tableEvent nbits w = .cmd (BitVec.ofNat 16 w) := by simp [tableEvent, he, hdecode, hk]
    have hcmd : decodeCmd (BitVec.ofNat 16 w) = .instr i :=
      (decodeTableWord_cases h).resolve_left fun ⟨k, hsome⟩ => by cases hk.symm.trans hsome
    rw [hevent, serve_cmd hcmd]

end Sys2Proof.Machine

namespace Sys2Proof.Proofs

open Sys2Proof.Machine

/-- Settles O5: a step serves the oldest event, and each of the three is served by exec. -/
theorem stepRunsDecodedInstruction : Obligations.StepRunsDecodedInstruction :=
  ⟨fun s rest _ _ hw => serve_cmd hw { s with input := rest },
    fun s rest _ _ hk => serve_rd_symrom hk { s with input := rest },
    fun s _ _ _ h => serve_tableEvent h s⟩

/-- Settles O6: a step serves the oldest event, if there is one. -/
theorem stepServesTheOldestEvent : Obligations.StepServesTheOldestEvent :=
  ⟨fun s rest _ _ _ => step_cons s _ rest, fun s rest _ _ => step_cons s _ rest, fun s rest => step_cons s .reset rest,
    fun _ h => step_nil h⟩

end Sys2Proof.Proofs

/-! SUPPORT. The decoder and the encoder against each other, which words are legal, and which codes stand in `CHRROM`. -/

namespace Sys2Proof

open Sys2Proof.Machine

/-! ## Decoding what was encoded -/

/-- A row of the opcode table is a command or a row of the symbol table (30_encoding.md R71; 40_symbol_table.md R100). -/
theorem isCommand_or_romIndex (i : Instr) : IsCommand i ∨ ∃ k, i.romIndex = some k := by
  cases i with
  | clr => exact .inl .clr
  | push c => exact .inl (.push c)
  | luc c => exact .inl (.luc c)
  | luv v => exact .inl (.luv v)
  | csum m => exact .inl (.csum m)
  | enc => exact .inl .enc
  | runs => exact .inl .runs
  | geom => exact .inl .geom
  | _ => exact .inr ⟨_, rfl⟩

/-- A command's word has its `op` and its operand in their fields, and `decodeOp` reads them (30_encoding.md R66). -/
theorem exists_word_of_isCommand {i : Instr} (h : IsCommand i) : ∃ w, encode i = .cmd16 w ∧ decodeCmd w = .instr i := by
  cases h <;> exact ⟨_, rfl, decodeCmd_cmdWord _ _⟩

/-- A symbol row's integer column is its binary column, by which it is found (40_symbol_table.md R110 (c)). -/
theorem exists_pattern_of_romIndex {i : Instr} {k : Nat} (h : i.romIndex = some k) :
    ∃ p, encode i = .sym9 p ∧ decodeSym p = .instr i := by
  obtain ⟨-, r, hr, rfl⟩ := romIndex_row h
  exact ⟨r.pattern, (symbolRows_index k r hr).2, decodeSym_rows r (List.mem_of_getElem? hr)⟩

theorem decode_encode (i : Instr) : decode (encode i) = .instr i := by
  rcases isCommand_or_romIndex i with h | ⟨k, h⟩
  · obtain ⟨w, he, hd⟩ := exists_word_of_isCommand h
    rw [he]
    exact hd
  · obtain ⟨p, he, hd⟩ := exists_pattern_of_romIndex h
    rw [he]
    exact hd

/-- Nine bits are the encoding of what they decode to (40_symbol_table.md R110 (c)). -/
theorem encode_of_decodeSym {p : Pattern} {i : Instr} (h : decodeSym p = .instr i) : encode i = .sym9 p := by
  obtain ⟨r, hr, rfl, rfl⟩ := decodeSym_cases h
  obtain ⟨k, hk⟩ := List.mem_iff_getElem?.mp hr
  exact (symbolRows_index k r hk).2

/-! ## The legal words -/

/-- The commands without operand are those of `op` 0, 5, 6 and 7; every other `op` below 8 takes any `imm8` (30_encoding.md R66). -/
theorem exists_decodeOp {op : BitVec 4} {imm : Imm8} (hop : op.toNat < 8) (himm : op.toNat ∈ [0, 5, 6, 7] → imm = 0#8) :
    ∃ i, decodeOp op imm = .instr i := by
  unfold decodeOp noOperand
  generalize op.toNat = n at hop himm ⊢
  have hn : n = 1 ∨ n = 2 ∨ n = 3 ∨ n = 4 ∨ n ∈ [0, 5, 6, 7] := by
    interval_cases n <;> decide
  rcases hn with rfl | rfl | rfl | rfl | hn
  · exact ⟨.push imm, rfl⟩
  · exact ⟨.luc imm, rfl⟩
  · exact ⟨.luv imm, rfl⟩
  · exact ⟨.csum imm, rfl⟩
  · obtain rfl := himm hn
    fin_cases hn <;> exact ⟨_, rfl⟩

/-- A word is legal exactly when none of R70 (a) to (c) holds of its fields. -/
theorem exists_decodeCmd_iff {w : CmdWord} :
    (∃ i, decodeCmd w = .instr i) ↔
      (opField w).toNat < 8 ∧ rsvField w = 0#4 ∧ ((opField w).toNat ∈ [0, 5, 6, 7] → immField w = 0#8) := by
  constructor
  · rintro ⟨i, h⟩
    obtain ⟨hrsv, hop⟩ := decodeCmd_cases h
    rcases decodeOp_cases hop with ⟨e, e', -⟩ | ⟨e, -⟩ | ⟨e, -⟩ | ⟨e, -⟩ | ⟨e, -⟩ | ⟨e, e', -⟩ | ⟨e, e', -⟩ | ⟨e, e', -⟩ <;>
      simp [*]
  · rintro ⟨hop, hrsv, himm⟩
    obtain ⟨i, hi⟩ := exists_decodeOp hop himm
    exact ⟨i, by rw [decodeCmd, if_pos hrsv, hi]⟩

end Sys2Proof

namespace Sys2Proof.Machine

/-! ## The character codes (30_encoding.md R62) -/

/-- Codes that follow each other have values that follow each other, where `hrow` says so of each. -/
theorem valueOf_of_offset {n m v : Nat} (hrow : ∀ d < m, valueOf (BitVec.ofNat 8 (n + d)) = some (d + v)) {c : Code}
    (hn : n ≤ c.toNat) (hm : c.toNat < n + m) : valueOf c = some (c.toNat - n + v) := by
  have hc : BitVec.ofNat 8 (n + (c.toNat - n)) = c := by simp [Nat.add_sub_cancel' hn]
  rw [← hrow (c.toNat - n) (by omega), hc]

theorem valueOf_digit {c : Code} (h0 : 0x30 ≤ c.toNat) (h9 : c.toNat ≤ 0x39) : valueOf c = some (c.toNat - 0x30) :=
  valueOf_of_offset (m := 10) (v := 0) (by decide) h0 (by omega)

theorem valueOf_letter {c : Code} (hA : 0x41 ≤ c.toNat) (hZ : c.toNat ≤ 0x5A) : valueOf c = some (c.toNat - 0x41 + 10) :=
  valueOf_of_offset (m := 26) (by decide) hA (by omega)

/-- Where the codes of the 48 rows lie. -/
theorem symbolRows_codes : ∀ r ∈ symbolRows,
    r.code.toNat = 0x20 ∨ r.code.toNat = 0x24 ∨ r.code.toNat = 0x25 ∨ r.code.toNat = 0x2B ∨
      (0x2D ≤ r.code.toNat ∧ r.code.toNat ≤ 0x39) ∨ (0x41 ≤ r.code.toNat ∧ r.code.toNat ≤ 0x5A) ∨ r.code.toNat = 0xA4 ∨
      r.code.toNat = 0xA5 ∨ r.code.toNat = 0xAB ∨ r.code.toNat = 0xAF ∨ r.code.toNat = 0xFF := by decide

theorem chrrom_mem {k : Nat} {c : Code} (h : chrrom k = some c) : ∃ r ∈ symbolRows, r.code = c := by
  obtain ⟨r, hr, hc⟩ := Option.map_eq_some_iff.mp h
  exact ⟨r, List.mem_of_getElem? hr, hc⟩

end Sys2Proof.Machine

namespace Sys2Proof.Proofs

open Sys2Proof.Machine Sys2Proof.Claims

/-- Settles O1: a command is read back from its fields, a symbol row from its pattern. -/
theorem decodeEncodeRoundTrip : Obligations.DecodeEncodeRoundTrip := decode_encode

/-- Settles O2: a word is put together again from its fields, and a pattern stands in the table beside its encoding. -/
theorem decodedBitsEncodeBack : Obligations.DecodedBitsEncodeBack :=
  ⟨fun _ _ => encode_of_decodeCmd, fun _ _ => encode_of_decodeSym⟩

/-- Settles O3: the condition of R70 is the negation of being legal, and an illegal word only ends with its error. -/
theorem illegalWordsChangeOnlyErr : Obligations.IllegalWordsChangeOnlyErr := by
  intro s rest w
  have hlegal : (∃ i, decodeCmd w = .instr i) ↔ ¬ (8 ≤ (w.extractLsb' 12 4).toNat ∨ w.extractLsb' 8 4 ≠ 0#4 ∨
      ((w.extractLsb' 12 4).toNat ∈ [0, 5, 6, 7] ∧ w.extractLsb' 0 8 ≠ 0#8)) := by
    rw [exists_decodeCmd_iff, not_or, not_or, not_le, not_not, not_and, not_not]
    rfl
  refine ⟨fun hbad => ?_, hlegal.mpr⟩
  cases hd : decodeCmd w with
  | instr i => exact absurd hbad (hlegal.mp ⟨i, hd⟩)
  | illegal why => exact (step_cons s _ rest).trans (serve_illegal hd _)

/-- Settles O4: each is the encoding of the instruction named, written as one number. -/
theorem specWordsDecode : Obligations.SpecWordsDecode :=
  ⟨decode_encode .clr, decode_encode (.push 0x41#8), decode_encode (.luc 0xA4#8), decode_encode (.luv 30#8),
    decode_encode (.csum 20#8), decode_encode .enc, decode_encode .runs, decode_encode .geom, decode_encode .sym0,
    decode_encode .symA, decode_encode .symPercent, decode_encode .symCheckPlus, decode_encode .symSentinel⟩

/-- Settles O29: digits and letters by their offset, the rest one by one, and no row has a code outside these. -/
theorem characterCodes : Obligations.CharacterCodes := by
  intro c
  refine ⟨valueOf_digit, valueOf_letter, ?_, ?_, ?_, ?_, ?_, ?_, ?_, ?_, ?_, ?_, ?_, ?_, fun hunused k hk => ?unused⟩
  case unused =>
    obtain ⟨r, hr, rfl⟩ := chrrom_mem hk
    have := symbolRows_codes r hr
    omega
  all_goals
    rintro rfl
    decide

end Sys2Proof.Proofs

/-! SUPPORT. The check values as registers, and what each slot of the module sequence holds. -/

namespace Sys2Proof.Machine

open Sys2Proof.Claims

/-! ## The value registers (30_encoding.md R63) -/

/-- `CSYM` and `KSYM` are checksums (41_checksum.md R122). -/
theorem encodeValues_le (values : List Nat) :
    (encodeValues values).csym.toNat ≤ 46 ∧ (encodeValues values).ksym.toNat ≤ 46 := by
  have hofNat : ∀ n, (BitVec.ofNat 6 n).toNat ≤ n := fun n => BitVec.toNat_ofNat n 6 ▸ Nat.mod_le n _
  exact ⟨(hofNat _).trans (checkC_le values), (hofNat _).trans (checkK_le values)⟩

/-! ## The slots (30_encoding.md R65) -/

/-- The slots of table R65-T, with the check values that the encoder takes. -/
theorem slots_eq (values : List Nat) : slots values = slotIndices values (checkC values) (checkK values) := rfl

/-- Module `9 * slot + j` is bit `8 - j` of the pattern of its slot. -/
theorem moduleSequence_getElem? {values : List Nat} {slot j i : Nat} {p : Pattern} (hj : j ≤ 8)
    (hi : (slots values)[slot]? = some i) (hp : symrom i = some p) :
    (moduleSequence values)[9 * slot + j]? = some (p.getLsbD (8 - j)) := by
  rw [moduleSequence, flatMap_getElem?_of_nine (fun i => modulesOf_length (romPattern i)) _ _ hj hi, romPattern_eq hp,
    modulesOf_getElem? p hj]

/-- The terminator. -/
theorem moduleSequence_last (values : List Nat) : (moduleSequence values)[9 * (values.length + 4)]? = some true := by
  have hlen : ((slots values).flatMap fun i => modulesOf (romPattern i)).length = 9 * (values.length + 4) := by
    simp [List.length_flatMap, modulesOf_length, slots_length, Nat.mul_comm]
  rw [moduleSequence, ← hlen, List.getElem?_concat_length]

/-- Every slot has a pattern. -/
theorem slots_getElem? {values : List Nat} (h : ∀ v ∈ values, v ≤ 46) {slot : Nat} (hslot : slot < values.length + 4) :
    ∃ i p, (slots values)[slot]? = some i ∧ symrom i = some p := by
  have hlt : slot < (slots values).length := by rwa [slots_length]
  obtain ⟨p, hp⟩ := symrom_isSome (slots_le h _ (List.getElem_mem hlt))
  exact ⟨_, p, List.getElem?_eq_getElem hlt, hp⟩

end Sys2Proof.Machine

namespace Sys2Proof.Proofs

open Sys2Proof.Machine Sys2Proof.Claims

/-- Settles O12: `VAL` is of a symbol of the table, `CSYM` and `KSYM` are of an encoding. -/
theorem valueRegistersStayBelow47 : Obligations.ValueRegistersStayBelow47 := by
  intro s hinv
  refine ⟨fun y hy => ?_, fun e he => ?_⟩
  · obtain ⟨v, hv, rfl⟩ := hinv.lookup y hy
    rwa [symbolAt_val hv]
  · obtain ⟨-, -, rfl⟩ := encodeText_ok (hinv.encoding e he)
    exact encodeValues_le _

/-- Settles O35: the bits of an accepted text are the module sequence of its values. -/
theorem moduleSequenceLayout : Obligations.ModuleSequenceLayout := by
  rintro text values e c k htext hvalues rfl rfl
  obtain ⟨hbits, hlen⟩ := encodeText_bits htext
  have hle := valuesOf_le text
  rw [valuesOf_of_forall₂ hvalues] at hbits hlen hle
  rw [hbits]
  refine ⟨by rw [moduleSequence_length, hlen], fun slot j i p _ hj hi hp => moduleSequence_getElem? hj hi hp,
    fun slot hslot => slots_getElem? hle (by omega), ?_⟩
  rw [← hlen]
  exact moduleSequence_last values

end Sys2Proof.Proofs

/-! SUPPORT. What the commands of `BARCODE "s"` do one after another (30_encoding.md R74). -/

namespace Sys2Proof.Machine

open Sys2Proof.Claims

/-! ## Commands that succeed -/

theorem exec_push_of_room {c : Imm8} {s : State} (h : textFull s = false) :
    exec (.push c) s = .next (finish .ok (clearResults (appendChar c s))) := by
  simp [exec, execPush, h, respondOk, charOperand]

theorem exec_enc_of_ok {s : State} {e : Encoded} (h : encodeText s.txt = .ok e) :
    exec .enc s = .next (finish .ok (writeEncoded e s)) := by
  simp [exec, execEnc, h, respondOk]

theorem exec_runs_of_enc {s : State} {e : Encoded} (h : s.enc = some e) (hbits : e.bits ≠ []) :
    exec .runs s = .next (finish .ok (writeRuns (runsOf e.bits) s)) := by
  simp [exec, execRuns, h, hbits, respondOk]

theorem exec_geom_of_runs {s : State} {rs : List Run} (h : s.runs = some rs)
    (hlegal : legalRequest (numDomain s.cfg.num) s.width s.height s.padding = true) (hwidth : totalWidth rs ≠ 0) :
    exec .geom s = .next (finish .ok (writeGeometry (geometryOf rs s) s)) := by
  simp [exec, execGeom, h, hlegal, hwidth, respondOk]

/-- A non-empty text of user characters is accepted (42_pattern_encoder.md R130). -/
theorem encodeText_of_userCodes {text : List Code} (hne : text ≠ []) (huser : ∀ c ∈ text, IsUserCode c) :
    encodeText text = .ok (encodeValues (valuesOf text)) :=
  encodeText_of_user hne (firstFailure_eq_none.mpr fun c hc => isUser_iff.mpr (huser c hc))

/-- One rectangle for each inked run (44_geometric_scaler.md R166). -/
theorem geometryOf_rects_length (rs : List Run) (s : State) : (geometryOf rs s).rects.length = rs.countP Run.fill :=
  walkRuns_length ..

/-! ## Runs of commands -/

/-- One step of a run whose next event is a command. -/
theorem run_command {i : Instr} {s t : State} {rest : List Event} (n : Nat) (hi : IsCommand i)
    (h : exec i { s with input := rest } = .next t) :
    core.run (n + 1) { s with input := commandEvents i ++ rest } = core.run n t := by
  obtain ⟨w, hw, hd⟩ := exists_word_of_isCommand hi
  have hevents : commandEvents i ++ rest = .cmd w :: rest := by simp [commandEvents, hw]
  rw [hevents]
  exact run_succ (M := core) n (((step_cons s _ rest).trans (serve_cmd hd _)).trans h)

/-- The commands of `TEXT` after its `CLR`. -/
def pushEvents (cs : List Code) : List Event := cs.flatMap fun c => commandEvents (.push c)

theorem pushEvents_cons (c : Code) (cs : List Code) : pushEvents (c :: cs) = commandEvents (.push c) ++ pushEvents cs :=
  List.flatMap_cons

/-- The commands of `BARCODE` after its `TEXT`. -/
def stageEvents : List Event := commandEvents .enc ++ (commandEvents .runs ++ commandEvents .geom)

theorem barcodeEvents_eq (cs : List Code) :
    barcodeEvents cs = commandEvents .clr ++ (pushEvents cs ++ stageEvents) := by
  simp [barcodeEvents, textEvents, pushEvents, stageEvents]

/-- What `TEXT` leaves: the characters, no result, `ERR` = 0, and the rest as it was. -/
def textEntered (cs : List Code) (s : State) : State :=
  finish .ok { clearLookup (clearResults s) with txt := cs }

/-- The `PUSH` commands of `TEXT`, while there is room for the characters. -/
theorem run_pushes (n : Nat) (s : State) (rest : List Event) (entered cs : List Code)
    (hfit : ∀ m, s.cfg.textMax = some m → (entered ++ cs).length ≤ m) :
    core.run (cs.length + n) (textEntered entered { s with input := pushEvents cs ++ rest }) =
      core.run n (textEntered (entered ++ cs) { s with input := rest }) := by
  induction cs generalizing entered with
  | nil => simp [pushEvents]
  | cons c cs ih =>
    have hroom : textFull (textEntered entered { s with input := pushEvents cs ++ rest }) = false :=
      textFull_eq_false.mpr fun m hm => by
        have hlen := hfit m hm
        rw [List.length_append, List.length_cons] at hlen
        exact (show entered.length < m by omega)
    calc core.run ((c :: cs).length + n) (textEntered entered { s with input := pushEvents (c :: cs) ++ rest })
      _ = core.run (cs.length + n + 1)
            (textEntered entered { s with input := commandEvents (.push c) ++ (pushEvents cs ++ rest) }) := by
        rw [pushEvents_cons, List.append_assoc, List.length_cons, Nat.add_right_comm]
      _ = core.run (cs.length + n) (textEntered (entered ++ [c]) { s with input := pushEvents cs ++ rest }) :=
        run_command (s := textEntered entered s) _ (.push c) (exec_push_of_room hroom)
      _ = core.run n (textEntered (entered ++ c :: cs) { s with input := rest }) := by
        have hassoc : (entered ++ [c]) ++ cs = entered ++ c :: cs := by simp
        rw [ih (entered ++ [c]) (by rwa [hassoc]), hassoc]

/-- The `TEXT` of a text that fits. -/
theorem run_text (n : Nat) (s : State) (rest : List Event) {cs : List Code}
    (hfit : ∀ m, s.cfg.textMax = some m → cs.length ≤ m) :
    core.run (cs.length + n + 1) { s with input := commandEvents .clr ++ (pushEvents cs ++ rest) } =
      core.run n (textEntered cs { s with input := rest }) :=
  calc core.run (cs.length + n + 1) { s with input := commandEvents .clr ++ (pushEvents cs ++ rest) }
    _ = core.run (cs.length + n) (textEntered [] { s with input := pushEvents cs ++ rest }) := run_command _ .clr rfl
    _ = core.run n (textEntered cs { s with input := rest }) := run_pushes n s rest [] cs hfit

/-- What `ENC` leaves of an accepted text with the encoding `e`. -/
def encDone (e : Encoded) (s : State) : State := finish .ok (writeEncoded e s)

/-- What `ENC` and `RUNS` leave. -/
def runsDone (e : Encoded) (s : State) : State := finish .ok (writeRuns (runsOf e.bits) (encDone e s))

/-- What `ENC`, `RUNS` and `GEOM` leave. -/
def geomDone (e : Encoded) (s : State) : State :=
  finish .ok (writeGeometry (geometryOf (runsOf e.bits) (runsDone e s)) (runsDone e s))

/-- The three stages on an accepted text, under a legal configuration. -/
theorem run_stages {s : State} {e : Encoded} (he : encodeText s.txt = .ok e)
    (hlegal : legalRequest (numDomain s.cfg.num) s.width s.height s.padding = true) :
    core.run 3 { s with input := stageEvents } = .next (geomDone e { s with input := [] }) := by
  have hlen := encodeText_bits_length he
  have hbits : e.bits ≠ [] := List.ne_nil_of_length_pos (by omega)
  have hwidth : totalWidth (runsOf e.bits) ≠ 0 := by rw [totalWidth_runsOf]; omega
  calc core.run 3 { s with input := stageEvents }
    _ = core.run 2 (encDone e { s with input := commandEvents .runs ++ commandEvents .geom }) :=
      run_command (s := s) 2 .enc (exec_enc_of_ok he)
    _ = core.run 1 (runsDone e { s with input := commandEvents .geom }) :=
      run_command (s := encDone e s) 1 .runs (exec_runs_of_enc rfl hbits)
    _ = core.run 0 (geomDone e { s with input := [] }) :=
      run_command (s := runsDone e s) (rest := []) 0 .geom (exec_geom_of_runs rfl hlegal hwidth)

end Sys2Proof.Machine

namespace Sys2Proof.Proofs

open Sys2Proof.Machine Sys2Proof.Claims

/-- Settles O60: every command succeeds in turn, and the counts are those of the accepted text. -/
theorem barcodeCompletes : Obligations.BarcodeCompletes := by
  intro s text hne huser hfit hlegal
  have he := encodeText_of_userCodes hne huser
  have hrun : core.run (text.length + 4) { s with input := barcodeEvents text } =
      .next (geomDone (encodeValues (valuesOf text)) (textEntered text { s with input := [] })) := by
    rw [barcodeEvents_eq, run_text 3 s stageEvents hfit]
    exact run_stages (s := textEntered text s) he hlegal
  refine ⟨_, hrun, rfl, rfl, rfl, rfl, ?_, ?_, ?_⟩
  · rw [(readSpace_enc rfl).2.2, encodeText_bits_length he]
  · rw [readSpace_runs rfl, encodeText_runs_length he]
  · rw [(readSpace_geo rfl).1, geometryOf_rects_length, encodeText_runs_countP he]

end Sys2Proof.Proofs

/-! SUPPORT. The words that carry an operand, the elements of the ROMs, and how the two lookup commands end. -/

namespace Sys2Proof

/-- A word written as the byte of its `op` and its operand (30_encoding.md R60, R61). -/
theorem decodeCmd_append {high : BitVec 8} {op : BitVec 4} (h : high = op ++ 0#4) (imm : Imm8) :
    decodeCmd (high ++ imm) = decodeOp op imm := by
  have hword : (high ++ imm : CmdWord) = cmdWord op imm := h ▸ BitVec.append_assoc
  rw [hword, decodeCmd_cmdWord]

end Sys2Proof

namespace Sys2Proof.Machine

/-! ## The elements of the ROMs (10_state.md R14, R15) -/

theorem le_of_symrom {k : Nat} {p : Pattern} (h : symrom k = some p) : k ≤ 47 := by
  by_contra hk
  cases (symrom_eq_none (by omega)).symm.trans h

/-- A pattern decodes to the row of its ROM index (40_symbol_table.md R110 (c)). -/
theorem decodeSym_of_symrom {k : Nat} {p : Pattern} (h : symrom k = some p) :
    ∃ i, decodeSym p = .instr i ∧ i.romIndex = some k := by
  obtain ⟨r, hr, rfl⟩ := Option.map_eq_some_iff.mp h
  exact ⟨r.row, decodeSym_rows r (List.mem_of_getElem? hr), (symbolRows_index k r hr).1⟩

/-- No pattern stands at two ROM indices (40_symbol_table.md R110 (c)). -/
theorem symrom_injective {j k : Nat} {p : Pattern} (hj : symrom j = some p) (hk : symrom k = some p) : j = k := by
  obtain ⟨i, hi, hij⟩ := decodeSym_of_symrom hj
  obtain ⟨i', hi', hik⟩ := decodeSym_of_symrom hk
  obtain rfl := Decoded.instr.inj (hi.symm.trans hi')
  exact Option.some.inj (hij.symm.trans hik)

/-- A symbol row's encoding is the element of `SYMROM` at its index. -/
theorem encode_symbolRow {i : Instr} {k : Nat} (h : i.romIndex = some k) :
    ∃ p, encode i = .sym9 p ∧ symrom k = some p := by
  obtain ⟨-, r, hr, rfl⟩ := romIndex_row h
  exact ⟨r.pattern, (symbolRows_index k r hr).2, Option.map_eq_some_iff.mpr ⟨r, hr, rfl⟩⟩

/-! ## The shape of a pattern (40_symbol_table.md R110) -/

/-- Bits 8 and 0 of a pattern are its first and its last module. -/
theorem modulesOf_ends (p : Pattern) :
    (modulesOf p).head? = some (p.getLsbD 8) ∧ (modulesOf p).getLast? = some (p.getLsbD 0) := ⟨rfl, rfl⟩

/-- `modulesOf_romPattern_ends` for an element of `SYMROM`. -/
theorem modulesOf_symrom_ends {k : Nat} {p : Pattern} (h : symrom k = some p) :
    (modulesOf p).head? = some true ∧ (modulesOf p).getLast? = some false :=
  romPattern_eq h ▸ modulesOf_romPattern_ends (le_of_symrom h)

theorem symrom_endBits {k : Nat} {p : Pattern} (h : symrom k = some p) : p.getLsbD 8 = true ∧ p.getLsbD 0 = false := by
  obtain ⟨hfirst, hlast⟩ := modulesOf_symrom_ends h
  obtain ⟨hbit8, hbit0⟩ := modulesOf_ends p
  exact ⟨Option.some.inj (hbit8.symm.trans hfirst), Option.some.inj (hbit0.symm.trans hlast)⟩

theorem runsOf_romPattern_width {i : Nat} (hi : i ≤ 47) : ∀ r ∈ runsOf (modulesOf (romPattern i)), r.width ≤ 4 :=
  romPattern_forall (P := fun p => ∀ r ∈ runsOf (modulesOf p), r.width ≤ 4) (by decide) hi

/-! ## The lookups (40_symbol_table.md R108, R109) -/

theorem lookupValue_of_le {v : Nat} (h : v ≤ 46) : lookupValue v = some (symbolAt v) := if_pos h

theorem chrrom_symbolAt {v : Nat} (h : v ≤ 46) : chrrom v = some (symbolAt v).chr := by
  obtain ⟨c, hc⟩ := chrrom_isSome (show v ≤ 47 by omega)
  simp [symbolAt, hc]

/-- The code of a value's symbol finds that symbol again. -/
theorem lookupChar_symbolAt {v : Nat} (h : v ≤ 46) : lookupChar (symbolAt v).chr = some (symbolAt v) :=
  lookupChar_eq_some.mpr ⟨v, h, chrrom_symbolAt h, rfl⟩

/-! ## The lookup commands -/

theorem exec_luc_of_some {c : Imm8} {y : Symbol} (h : lookupChar c = some y) (s : State) :
    exec (.luc c) s = .next (finish .ok (writeLookup y s)) := by
  simp [exec, execLuc, charOperand, h, respondOk]

theorem exec_luc_of_none {c : Imm8} (h : lookupChar c = none) (s : State) :
    exec (.luc c) s = .next (finish (.unknownSymbol c 0) (clearLookup s)) := by
  simp [exec, execLuc, charOperand, h, raise, errorFlags]

theorem exec_luv_of_le {v : Imm8} (h : v.toNat ≤ 46) (s : State) :
    exec (.luv v) s = .next (finish .ok (writeLookup (symbolAt v.toNat) s)) := by
  simp [exec, execLuv, valueOperand, h, respondOk]

theorem exec_luv_of_ge {v : Imm8} (h : 47 ≤ v.toNat) (s : State) :
    exec (.luv v) s = .next (finish .illegalOperand (clearLookup s)) := by
  simp [exec, execLuv, valueOperand, show ¬ v.toNat ≤ 46 by omega, raise, errorFlags]

end Sys2Proof.Machine

namespace Sys2Proof.Proofs

open Sys2Proof.Machine Sys2Proof.Claims

/-- Settles O21: `LUC` ends with the symbol that the code finds, if it finds one. -/
theorem lucResult : Obligations.LucResult := by
  intro s c
  refine ⟨decodeCmd_append (op := 2#4) rfl c, fun v p hv hp => ?found, fun hnone => ?unknown⟩
  case found =>
    obtain ⟨hle, hc⟩ := hv
    rw [exec_luc_of_some (lookupChar_eq_some.mpr ⟨v, hle, hc, rfl⟩), symbolAt_eq hc hp]
    rfl
  case unknown => exact exec_luc_of_none (lookupChar_eq_none.mpr hnone) s

/-- Settles O22: `LUV` ends with the symbol of its operand, if that is a value. -/
theorem luvResult : Obligations.LuvResult := by
  intro s v
  refine ⟨decodeCmd_append (op := 3#4) rfl v, fun c p hle hc hp => ?_, fun hge => exec_luv_of_ge hge s⟩
  rw [exec_luv_of_le hle, symbolAt_eq hc hp]
  rfl

/-- Settles O28: a row's encoding stands in `SYMROM` at its index, and the row is the read of that element. -/
theorem symbolRowResult : Obligations.SymbolRowResult := by
  intro i k hk
  obtain ⟨p, he, hp⟩ := encode_symbolRow hk
  refine ⟨le_of_symrom hp, p, he, hp, fun s => ?_⟩
  have hread : readSpace symromSpace k s = .rdOk (.pattern p) := (readSpace_symrom s hp).2
  rw [exec_symbolRow hk, busRead_eq, hread]

/-- Settles O30: the code of a value stands in `CHRROM` at that value, and no other valued code is equal to it. -/
theorem lookupsAreInverse : Obligations.LookupsAreInverse :=
  ⟨fun _ _ => valueOf_eq_some,
    fun v hv => ⟨symbolAt v, lookupValue_of_le hv, lookupChar_symbolAt hv, symbolAt_val hv⟩,
    fun _ hv => if_neg (by omega), by decide⟩

/-- Settles O31: the ends and the runs of each pattern, and a change of the bit where two patterns meet. -/
theorem patternShape : Obligations.PatternShape := by
  refine ⟨fun k p hp => ?shape, fun j k p => symrom_injective, fun j k p q hp hq => ?joint⟩
  case shape =>
    have hk := le_of_symrom hp
    obtain ⟨hfirst, hlast⟩ := symrom_endBits hp
    obtain rfl := romPattern_eq hp
    exact ⟨hfirst, hlast, runsOf_romPattern_length hk, totalWidth_runsOf _,
      fun r hr => ⟨runsOf_width_pos _ r hr, runsOf_romPattern_width hk r hr⟩, runsOf_romPattern_countP hk⟩
  case joint => exact runsOf_append (modulesOf_symrom_ends hp).2 (modulesOf_symrom_ends hq).1 (by decide)

end Sys2Proof.Proofs

/-! SUPPORT. The sum of the checksum engine in its three forms, and how `CSUM` ends. -/

namespace Sys2Proof.Machine

open Sys2Proof.Claims

/-! ## The weighted sum (41_checksum.md R120) -/

/-- The traversal of a joined sequence counts on through its second part. -/
theorem weightedSum_append (maxWeight index : Nat) (a b : List Nat) :
    weightedSum maxWeight index (a ++ b) =
      weightedSum maxWeight index a + weightedSum maxWeight (index + a.length) b := by
  induction a generalizing index with
  | nil => simp [weightedSum]
  | cons v rest ih =>
    have hindex : index + 1 + rest.length = index + (rest.length + 1) := by omega
    rw [List.cons_append, weightedSum, weightedSum, ih, List.length_cons, hindex, Nat.add_assoc]

/-- The leftmost value has the weight of the last index of the reversed traversal. -/
theorem weightedSumFromLeft_cons (v : Nat) (rest : List Nat) (maxWeight : Nat) :
    weightedSumFromLeft (v :: rest) maxWeight =
      weightedSumFromLeft rest maxWeight + v * (rest.length % maxWeight + 1) := by
  simp [weightedSumFromLeft, Finset.sum_range_succ', Nat.sub_sub, Nat.add_comm 1]

/-- The reversed traversal takes the sum of the closed form. -/
theorem weightedSum_reverse (values : List Nat) (maxWeight : Nat) :
    weightedSum maxWeight 0 values.reverse = weightedSumFromLeft values maxWeight := by
  induction values with
  | nil => rfl
  | cons v rest ih => simp [weightedSum_append, weightedSum, weightedSumFromLeft_cons, ih]

theorem checksum_eq (values : List Nat) (maxWeight : Nat) :
    checksum values maxWeight = weightedSumFromLeft values maxWeight % 47 := by
  rw [checksum, weightedSum_reverse]

/-- A traversal that reduces the accumulator modulo 47 after every step ends with the remainder (41_checksum.md R123). -/
theorem foldl_reduced (maxWeight index : Nat) {acc : Nat} (hacc : acc < 47) (l : List Nat) :
    (l.zipIdx index).foldl (fun acc p => (acc + p.1 * (p.2 % maxWeight + 1)) % 47) acc =
      (acc + weightedSum maxWeight index l) % 47 := by
  induction l generalizing index acc with
  | nil => exact (Nat.mod_eq_of_lt hacc).symm
  | cons v rest ih =>
    rw [List.zipIdx_cons, List.foldl_cons, ih _ (Nat.mod_lt _ (by decide)), weightedSum, Nat.mod_add_mod, Nat.add_assoc]

theorem reducedSum_eq_checksum (values : List Nat) (maxWeight : Nat) :
    reducedSum values maxWeight = checksum values maxWeight := by
  rw [reducedSum, foldl_reduced maxWeight 0 (by decide), Nat.zero_add, checksum]

/-! ## Texts that have values -/

theorem hasValue_symbolAt {v : Nat} (h : v ≤ 46) : HasValue (symbolAt v).chr v := ⟨h, chrrom_symbolAt h⟩

/-- Where every code has a value, none fails. -/
theorem firstFailure_isValued_of_forall₂ {text : List Code} {values : List Nat} (h : List.Forall₂ HasValue text values) :
    firstFailure isValued text = none := by
  rw [firstFailure_eq_none]
  induction h with
  | nil => simp
  | cons hv _ ih => exact List.forall_mem_cons.mpr ⟨isValued_iff.mpr ⟨_, hv⟩, ih⟩

/-- The code and the position that the statements call the first failure are those that the scan reports. -/
theorem firstFailure_of_firstBad {test : Code → Bool} {good : Code → Prop} (htest : ∀ c, test c = true ↔ good c)
    {text : List Code} {c : Code} {p : Nat} (h : FirstBad good text c p) : firstFailure test text = some (c, p) := by
  obtain ⟨hc, hbad, hbefore⟩ := h
  exact firstFailure_eq_some.mpr ⟨hc, by rwa [← Bool.not_eq_true, htest], fun q d hq hd => (htest d).mpr (hbefore q d hq hd)⟩

/-- The values of an accepted text (42_pattern_encoder.md R130). -/
theorem encodeText_values {text : List Code} {e : Encoded} (h : encodeText text = .ok e) :
    ∃ values, List.Forall₂ HasValue text values ∧ e = encodeValues values := by
  obtain ⟨-, huser, he⟩ := encodeText_ok h
  exact ⟨_, forall₂_valuesOf fun c hc => isValued_of_isUser (firstFailure_eq_none.mp huser c hc), he⟩

/-! ## `CSUM` (41_checksum.md R124) -/

theorem exec_csum_zero (s : State) : exec (.csum 0#8) s = .next (finish .illegalOperand (clearLookup s)) := rfl

/-- The operand check passes every weight but 0. -/
theorem exec_csum_of_ne_zero {mm : Imm8} (hmm : mm ≠ 0#8) (s : State) : exec (.csum mm) s = sumText mm.toNat s := by
  have hpos : 1 ≤ mm.toNat := Nat.one_le_iff_ne_zero.mpr fun h => hmm (BitVec.eq_of_toNat_eq h)
  simp [exec, execCsum, weightOperand, hpos]

theorem exec_csum_of_failure {mm : Imm8} (hmm : mm ≠ 0#8) {s : State} {c : Code} {p : Nat}
    (h : firstFailure isValued s.txt = some (c, p)) :
    exec (.csum mm) s = .next (finish (.unknownSymbol c p) (clearLookup s)) := by
  simp [exec_csum_of_ne_zero hmm, sumText, h, raise, errorFlags]

theorem exec_csum_of_values {mm : Imm8} (hmm : mm ≠ 0#8) {s : State} {values : List Nat}
    (h : List.Forall₂ HasValue s.txt values) :
    exec (.csum mm) s = .next (finish .ok (writeLookup (symbolAt (checksum values mm.toNat)) s)) := by
  simp [exec_csum_of_ne_zero hmm, sumText, firstFailure_isValued_of_forall₂ h, valuesOf_of_forall₂ h, respondOk]

end Sys2Proof.Machine

namespace Sys2Proof.Proofs

open Sys2Proof.Machine Sys2Proof.Claims

/-- Settles O23: the operand check, the scan of the text and the sum, each as `CSUM` comes to it. -/
theorem csumResult : Obligations.CsumResult := by
  intro s mm
  refine ⟨decodeCmd_append (op := 4#4) rfl mm, ?operand, fun c p hmm hbad => ?unknown, fun values hmm hvalues => ?sum⟩
  case operand => rintro rfl; exact exec_csum_zero s
  case unknown => exact exec_csum_of_failure hmm (firstFailure_of_firstBad (fun _ => isValued_iff) hbad)
  case sum =>
    have hle := checksum_le values mm.toNat
    exact ⟨_, _, _, checksum_eq values mm.toNat, chrrom_symbolAt hle, symrom_romPattern (by omega),
      exec_csum_of_values hmm hvalues⟩

/-- Settles O32: the two sums are one, and its remainder is at most 46. -/
theorem checksumIsTheWeightedSum : Obligations.ChecksumIsTheWeightedSum := by
  intro values maxWeight _
  have hle := checksum_le values maxWeight
  exact ⟨weightedSum_reverse values maxWeight, symbolAt _, lookupValue_of_le hle,
    (symbolAt_val hle).trans (checksum_eq values maxWeight)⟩

/-- Settles O33: a remainder modulo 47 is a value, and the reduced accumulator leaves the same remainder. -/
theorem checksumIsAlwaysAValue : Obligations.ChecksumIsAlwaysAValue :=
  ⟨fun values maxWeight => ⟨_, lookupValue_of_le (checksum_le values maxWeight)⟩, fun _ => rfl,
    fun values maxWeight _ => reducedSum_eq_checksum values maxWeight⟩

/-- Settles O47: the first `CSUM` gives C, which has a value, so that the second sums the values of the text and of C. -/
theorem csumStagesMatchEnc : Obligations.CsumStagesMatchEnc := by
  intro s e he hroom
  obtain ⟨values, hvalues, rfl⟩ := encodeText_values he
  have hC : HasValue (symbolAt (checkC values)).chr (checkC values) := hasValue_symbolAt (checkC_le values)
  have hvaluesC := List.rel_append hvalues (.cons hC .nil)
  exact ⟨_, _, _, _, _, exec_csum_of_values (by decide) hvalues, rfl, exec_push_of_room (textFull_eq_false.mpr hroom),
    exec_csum_of_values (by decide) hvaluesC, rfl, rfl, rfl, rfl, rfl⟩

end Sys2Proof.Proofs

/-! SUPPORT. How `PUSH` and `ENC` end, and what every module sequence begins and ends with. -/

namespace Sys2Proof.Machine

open Sys2Proof.Claims

/-! ## `PUSH` on a full text (42_pattern_encoder.md R131) -/

theorem exec_push_of_full {c : Imm8} {s : State} (h : textFull s = true) :
    exec (.push c) s = .next (finish .textOverflow s) := by
  simp [exec, execPush, h, raise, errorFlags]

/-! ## `encode(text)` (42_pattern_encoder.md R130) -/

/-- A text that has a failure is not empty, so the failure is what is reported. -/
theorem encodeText_of_failure {text : List Code} {c : Code} {p : Nat} (h : firstFailure isUser text = some (c, p)) :
    encodeText text = .error (.invalidCharacter c p) := by
  cases text with
  | nil => cases h
  | cons d rest => simp [encodeText, h]

theorem isUserCode_of_forall₂ {text : List Code} {values : List Nat} (h : List.Forall₂ HasValue text values)
    (huser : ∀ v ∈ values, v ≤ 42) : ∀ c ∈ text, IsUserCode c := by
  induction h with
  | nil => simp
  | cons hv _ ih =>
    obtain ⟨hle, hrest⟩ := List.forall_mem_cons.mp huser
    exact List.forall_mem_cons.mpr ⟨⟨_, hle, hv.2⟩, ih hrest⟩

theorem encodeText_of_values {text : List Code} {values : List Nat} (hne : text ≠ [])
    (h : List.Forall₂ HasValue text values) (huser : ∀ v ∈ values, v ≤ 42) :
    encodeText text = .ok (encodeValues values) := by
  rw [encodeText_of_userCodes hne (isUserCode_of_forall₂ h huser), valuesOf_of_forall₂ h]

/-- `KSYM` is the second stage's checksum, over the text with the value that `CSYM` holds (41_checksum.md R121). -/
theorem encodeValues_ksym (values : List Nat) :
    (encodeValues values).ksym = BitVec.ofNat 6 (checksum (values ++ [(encodeValues values).csym.toNat]) 15) := by
  have hcsym : (encodeValues values).csym.toNat = checkC values := symbolAt_val (checkC_le values)
  rw [hcsym]
  rfl

/-! ## `ENC` on a text that is not accepted (42_pattern_encoder.md R133) -/

/-- Either error clears the three results and is recorded. -/
theorem exec_enc_of_error {s : State} {r : CmdResult} (h : encodeText s.txt = .error r) :
    exec .enc s = .next (finish r (clearResults s)) := by
  have hraise : exec .enc s = raise r s := by simp [exec, execEnc, h]
  rcases encodeText_error h with ⟨-, rfl⟩ | ⟨c, p, -, rfl⟩
  · exact hraise
  · exact hraise

/-! ## The ends of the module sequence (42_pattern_encoder.md R138) -/

/-- The nine modules of the sentinel (40_symbol_table.md R105). -/
theorem modulesOf_sentinel :
    modulesOf (romPattern sentinelIndex) = [true, false, true, false, true, true, true, true, false] := by decide

/-- The sentinel, then the modules of the text and its check symbols, then the sentinel and the terminator. -/
theorem moduleSequence_eq (values : List Nat) :
    moduleSequence values =
      modulesOf (romPattern sentinelIndex) ++
        (values ++ [checkC values, checkK values]).flatMap (fun i => modulesOf (romPattern i)) ++
          (modulesOf (romPattern sentinelIndex) ++ [true]) := by
  simp [moduleSequence, slots]

theorem moduleSequence_take (values : List Nat) :
    (moduleSequence values).take 9 = modulesOf (romPattern sentinelIndex) := by
  rw [moduleSequence_eq, List.append_assoc, List.take_left' (modulesOf_length _)]

theorem moduleSequence_drop (values : List Nat) :
    (moduleSequence values).drop ((moduleSequence values).length - 10) =
      modulesOf (romPattern sentinelIndex) ++ [true] := by
  rw [moduleSequence_eq, List.drop_left']
  simp only [List.length_append, modulesOf_length, List.length_singleton]
  omega

/-- Each slot starts with ink and ends without. -/
theorem moduleSequence_slot_ends {values : List Nat} (h : ∀ v ∈ values, v ≤ 46) {slot : Nat}
    (hslot : slot < values.length + 4) :
    (moduleSequence values)[9 * slot]? = some true ∧ (moduleSequence values)[9 * slot + 8]? = some false := by
  obtain ⟨i, p, hi, hp⟩ := slots_getElem? h hslot
  obtain ⟨hfirst, hlast⟩ := symrom_endBits hp
  exact ⟨(moduleSequence_getElem? (j := 0) (by decide) hi hp).trans (congrArg some hfirst),
    (moduleSequence_getElem? (j := 8) (by decide) hi hp).trans (congrArg some hlast)⟩

end Sys2Proof.Machine

namespace Sys2Proof.Proofs

open Sys2Proof.Machine Sys2Proof.Claims

/-- Settles O19: `CLR` has no check to fail. -/
theorem clrResult : Obligations.ClrResult := ⟨by decide, fun _ => rfl⟩

/-- Settles O20: the text has room or it is full. -/
theorem pushResult : Obligations.PushResult := fun _ cc =>
  ⟨decodeCmd_append (op := 1#4) rfl cc, fun hroom => exec_push_of_room (textFull_eq_false.mpr hroom),
    fun hfull => exec_push_of_full (textFull_eq_true.mpr ⟨_, hfull, le_rfl⟩)⟩

/-- Settles O24: the check for an empty text, the scan for the first character that is not a user's, and the encoding of the
values. -/
theorem encResult : Obligations.EncResult := by
  intro s
  refine ⟨by decide, fun hempty => ?empty, fun c p hbad => ?invalid, fun values hne hvalues huser => ?encoded⟩
  case empty => exact exec_enc_of_error (by rw [hempty]; rfl)
  case invalid =>
    exact exec_enc_of_error (encodeText_of_failure (firstFailure_of_firstBad (fun _ => isUser_iff) hbad))
  case encoded =>
    have he := encodeText_of_values hne hvalues huser
    have hC : checkC values = weightedSumFromLeft values 20 % 47 := checksum_eq values 20
    have hK : checkK values = weightedSumFromLeft (values ++ [checkC values]) 15 % 47 := checksum_eq _ 15
    exact ⟨encodeValues values, checkC values, checkK values, hC, hK, rfl, rfl, encodeText_bits_length he, rfl,
      exec_enc_of_ok he⟩

/-- Settles O34: an accepted text has at least one character, and the text `A` has one. -/
theorem encodingLength : Obligations.EncodingLength := by
  refine ⟨fun text e he => ?_, ?_⟩
  · have hlen := encodeText_bits_length he
    have hpos : 0 < text.length := List.length_pos_iff.mpr (encodeText_ok he).1
    exact ⟨hlen, by omega⟩
  · have hA : encodeText [0x41#8] = .ok (encodeValues [10]) :=
      encodeText_of_values (by decide) (.cons ⟨by decide, by decide⟩ .nil) (by decide)
    exact ⟨_, _, hA, encodeText_bits_length hA⟩

/-- Settles O36: the first and the last slot hold the sentinel, and every pattern starts with ink and ends without. -/
theorem moduleSequenceShape : Obligations.ModuleSequenceShape := by
  intro text e he
  obtain ⟨hbits, hlen⟩ := encodeText_bits he
  rw [hbits, moduleSequence_take, moduleSequence_drop, modulesOf_sentinel]
  exact ⟨rfl, rfl, fun slot hslot => moduleSequence_slot_ends (valuesOf_le text) (by omega)⟩

/-- Settles O37: the encoding or the error is that of the text, and it decides what `ENC` records and responds. -/
theorem encDependsOnTheTextAlone : Obligations.EncDependsOnTheTextAlone := by
  intro s₁ s₂ t₁ t₂ htxt h₁ h₂
  cases he : encodeText s₁.txt with
  | ok e =>
    obtain rfl := Host.Outcome.next.inj ((exec_enc_of_ok he).symm.trans h₁)
    obtain rfl := Host.Outcome.next.inj ((exec_enc_of_ok (htxt ▸ he)).symm.trans h₂)
    exact ⟨rfl, rfl, rfl⟩
  | error r =>
    obtain rfl := Host.Outcome.next.inj ((exec_enc_of_error he).symm.trans h₁)
    obtain rfl := Host.Outcome.next.inj ((exec_enc_of_error (htxt ▸ he)).symm.trans h₂)
    exact ⟨rfl, rfl, rfl⟩

/-- Settles O38: neither way for `ENC` to end writes the text, and only an accepted text leaves an encoding. -/
theorem encKeepsTheText : Obligations.EncKeepsTheText := by
  intro s
  cases he : encodeText s.txt with
  | ok e =>
    refine ⟨_, exec_enc_of_ok he, rfl, fun _ => rfl, rfl, fun values x hx hvalues => ?_⟩
    obtain rfl : e = x := Option.some.inj hx
    obtain ⟨-, -, rfl⟩ := encodeText_ok he
    rw [valuesOf_of_forall₂ hvalues]
    exact encodeValues_ksym values
  | error r =>
    refine ⟨_, exec_enc_of_error he, rfl, fun _ => rfl, rfl, fun values x hx _ => ?_⟩
    cases hx

end Sys2Proof.Proofs

/-! SUPPORT. The runs of a sequence as its maximal spans, how `RUNS` ends, and the runs of an accepted text. -/

namespace Sys2Proof.Machine

open Sys2Proof.Claims

/-! ## The maximal spans (43_run_encoder.md R150, R152) -/

/-- The scan starts a run only where the bit changes. -/
theorem scanRuns_isChain (bits : List Bool) (r : Run) : (scanRuns r bits).IsChain (fun a b => a.fill ≠ b.fill) := by
  induction bits generalizing r with
  | nil => exact .singleton r
  | cons b bits ih =>
    unfold scanRuns
    split
    · exact ih _
    · next hb =>
      obtain ⟨w, rest, hscan, -⟩ := scanRuns_head bits ⟨b, 1⟩
      have hrest := ih ⟨b, 1⟩
      rw [hscan] at hrest ⊢
      exact hrest.cons_cons (Ne.symm hb)

theorem maximalRuns_runsOf (bits : List Bool) : MaximalRuns (runsOf bits) := by
  refine ⟨runsOf_width_pos bits, ?_⟩
  cases bits with
  | nil => exact .nil
  | cons b bits => exact scanRuns_isChain bits ⟨b, 1⟩

/-- The runs imply the bits (R152). -/
@[simp] theorem bitsOfRuns_runsOf (bits : List Bool) : bitsOfRuns (runsOf bits) = bits := by
  cases bits with
  | nil => rfl
  | cons b bits => exact bitsOfRuns_scanRuns bits ⟨b, 1⟩

theorem scanRuns_replicate (n w : Nat) (f : Bool) : scanRuns ⟨f, w⟩ (List.replicate n f) = [⟨f, w + n⟩] := by
  induction n generalizing w with
  | zero => rfl
  | succ n ih => simp [List.replicate_succ, scanRuns, ih, Nat.add_assoc, Nat.add_comm 1]

/-- Equal bits are one run. -/
theorem runsOf_replicate {n : Nat} (hn : 1 ≤ n) (f : Bool) : runsOf (List.replicate n f) = [⟨f, n⟩] := by
  obtain ⟨m, rfl⟩ := Nat.exists_eq_add_of_le' hn
  rw [List.replicate_succ, runsOf, scanRuns_replicate, Nat.add_comm]

/-- Maximal runs are found again in the bits that they imply: no run reaches over the joint to the next. -/
theorem runsOf_bitsOfRuns {rs : List Run} (h : MaximalRuns rs) : runsOf (bitsOfRuns rs) = rs := by
  obtain ⟨hwidth, hchain⟩ := h
  induction rs with
  | nil => rfl
  | cons r rs ih =>
    obtain ⟨hr, hrs⟩ := List.forall_mem_cons.mp hwidth
    have hrun : runsOf (List.replicate r.width r.fill) = [r] := runsOf_replicate hr r.fill
    have hrest := ih hrs hchain.tail
    cases rs with
    | nil => simpa using hrun
    | cons q rs =>
      have hq : 1 ≤ q.width := (List.forall_mem_cons.mp hrs).1
      have hlast : (List.replicate r.width r.fill).getLast? = some r.fill := by
        rw [List.getLast?_replicate, if_neg (by omega)]
      have hhead : (bitsOfRuns (q :: rs)).head? = some q.fill := by
        rw [bitsOfRuns_cons, List.head?_append, List.head?_replicate, if_neg (by omega)]
        rfl
      rw [bitsOfRuns_cons, runsOf_append hlast hhead hchain.rel, hrun, hrest]
      rfl

/-- Neighbours differ, so the first fill decides that of every run: the same at even places, the other at odd ones. -/
theorem fill_of_isChain {rs : List Run} {q r : Run} {i : Nat}
    (hchain : (q :: rs).IsChain (fun a b => a.fill ≠ b.fill)) (hr : (q :: rs)[i]? = some r) :
    r.fill = (q.fill == decide (i % 2 = 0)) := by
  induction i generalizing q rs with
  | zero =>
    obtain rfl : q = r := by simpa using hr
    simp
  | succ i ih =>
    cases rs with
    | nil => simp at hr
    | cons p rs =>
      have hne : q.fill ≠ p.fill := hchain.rel
      have hparity : decide ((i + 1) % 2 = 0) = !decide (i % 2 = 0) := by
        rw [← decide_not, decide_eq_decide]
        omega
      rw [ih hchain.tail hr, hparity, Bool.eq_not.mpr hne.symm]
      cases q.fill <;> simp

/-! ## `RUNS` (43_run_encoder.md R151) -/

theorem exec_runs_of_no_enc {s : State} (h : s.enc = none) : exec .runs s = .next (finish .notReady s) := by
  simp [exec, execRuns, h, raise, errorFlags]

/-! ## The runs of an accepted text (43_run_encoder.md R153) -/

/-- No run is wider than four modules. -/
theorem runsOf_moduleSequence_width {values : List Nat} (h : ∀ v ∈ values, v ≤ 46) :
    ∀ r ∈ runsOf (moduleSequence values), r.width ≤ 4 := by
  intro r hr
  rw [runsOf_moduleSequence h, List.mem_append, List.mem_flatMap, List.mem_singleton] at hr
  rcases hr with ⟨i, hi, hr⟩ | rfl
  · exact runsOf_romPattern_width (slots_le h i hi) r hr
  · decide

/-- The six runs of the sentinel (40_symbol_table.md R105). -/
theorem runsOf_sentinel :
    runsOf (modulesOf (romPattern sentinelIndex)) =
      [⟨true, 1⟩, ⟨false, 1⟩, ⟨true, 1⟩, ⟨false, 1⟩, ⟨true, 4⟩, ⟨false, 1⟩] := by
  rw [modulesOf_sentinel]
  rfl

theorem runsOf_moduleSequence_take {values : List Nat} (h : ∀ v ∈ values, v ≤ 46) :
    (runsOf (moduleSequence values)).take 5 =
      [⟨true, 1⟩, ⟨false, 1⟩, ⟨true, 1⟩, ⟨false, 1⟩, ⟨true, 4⟩] := by
  rw [runsOf_moduleSequence h, slots, List.cons_append, List.flatMap_cons, runsOf_sentinel]
  rfl

/-- The terminator is the last run, since the slot before it ends without ink. -/
theorem runsOf_moduleSequence_last {values : List Nat} (h : ∀ v ∈ values, v ≤ 46) :
    (runsOf (moduleSequence values))[6 * (values.length + 4)]? = some ⟨true, 1⟩ := by
  have hlast : 6 * (values.length + 4) = (runsOf (moduleSequence values)).length - 1 := by
    rw [runsOf_moduleSequence_length h]
    rfl
  rw [hlast, ← List.getLast?_eq_getElem?, runsOf_moduleSequence h, List.getLast?_concat]

/-- The runs alternate, and the first is inked. -/
theorem runsOf_moduleSequence_fill {values : List Nat} (h : ∀ v ∈ values, v ≤ 46) {i : Nat} {r : Run}
    (hr : (runsOf (moduleSequence values))[i]? = some r) : r.fill = decide (i % 2 = 0) := by
  obtain ⟨-, hchain⟩ := maximalRuns_runsOf (moduleSequence values)
  have htake := runsOf_moduleSequence_take h
  cases hrs : runsOf (moduleSequence values) with
  | nil => simp [hrs] at htake
  | cons q rs =>
    rw [hrs] at hr hchain htake
    have hq : q = ⟨true, 1⟩ := (List.cons.inj htake).1
    rw [fill_of_isChain hchain hr, hq, Bool.true_beq]

end Sys2Proof.Machine

namespace Sys2Proof.Proofs

open Sys2Proof.Machine Sys2Proof.Claims

/-- Settles O39: the scan gives maximal runs of the bits, and finds any maximal runs again in the bits they imply. -/
theorem runsAreTheMaximalSpans : Obligations.RunsAreTheMaximalSpans := by
  intro bits rs _
  constructor
  · rintro rfl
    exact ⟨bitsOfRuns_runsOf bits, maximalRuns_runsOf bits⟩
  · rintro ⟨rfl, hmax⟩
    exact (runsOf_bitsOfRuns hmax).symm

/-- Settles O25: without an encoding there is the error, with one the runs of its bits. -/
theorem runsResult : Obligations.RunsResult := fun _ =>
  ⟨by decide, exec_runs_of_no_enc, fun e he hbits =>
    ⟨runsOf e.bits, bitsOfRuns_runsOf e.bits, maximalRuns_runsOf e.bits, exec_runs_of_enc he hbits⟩⟩

/-- Settles O40: the runs are those of the slots' patterns and the terminator, and maximal runs alternate. -/
theorem runsOfAnEncoding : Obligations.RunsOfAnEncoding := by
  intro text e he
  obtain ⟨hbits, hlen⟩ := encodeText_bits he
  have hvalues := valuesOf_le text
  refine ⟨encodeText_runs_length he, encodeText_runs_countP he, ?_⟩
  rw [hbits, ← hlen]
  refine ⟨fun i r hr => ?_, runsOf_moduleSequence_take hvalues, runsOf_moduleSequence_last hvalues⟩
  have hmem := List.mem_of_getElem? hr
  exact ⟨runsOf_moduleSequence_fill hvalues hr, runsOf_width_pos _ r hmem, runsOf_moduleSequence_width hvalues r hmem⟩

/-- Settles O41: neither way for `RUNS` to end writes the encoding, from which a second `RUNS` takes the same runs. -/
theorem runsDoesNotConsumeTheBits : Obligations.RunsDoesNotConsumeTheBits := by
  intro s t h
  rcases execRuns_cases h with ⟨hnone, rfl⟩ | ⟨e, he, hbits, rfl⟩
  · exact ⟨rfl, rfl, rfl, fun _ => rfl, fun e he => by simp [hnone] at he⟩
  · exact ⟨rfl, rfl, rfl, fun _ => rfl, fun _ _ => ⟨_, exec_runs_of_enc he hbits, rfl⟩⟩

/-- Settles O46: the sizes of R134, R153 and R166 for the current text, which is not empty. -/
theorem runAndRectangleCounts : Obligations.RunAndRectangleCounts := by
  intro s rs hs hrs
  have hwidth := hs.totalWidth hrs
  obtain ⟨e, he, -⟩ := hs.runs rs hrs
  have hpos : 0 < s.txt.length :=
    List.length_pos_iff.mpr (hs.txt_ne_nil_of_encv (Option.isSome_of_eq_some he))
  refine ⟨⟨e, he, hwidth.trans (hs.bits_length he).symm⟩, by omega, hs.runs_length hrs, fun g hg => ?_⟩
  exact ⟨(hs.rects_length hg).trans (hs.runs_countP hrs).symm, hs.rects_length hg⟩

end Sys2Proof.Proofs

/-! SUPPORT. What `GEOM` answers, and its walk over the runs in the rationals (44_geometric_scaler.md R161 to R167). -/

namespace Sys2Proof.Machine

/-! ## Legal requests (R167) -/

theorem legalRequest_eq_true_iff {α : Type} {d : NumDomain α} {w h p : α} :
    legalRequest d w h p = true ↔ d.pos w = true ∧ d.pos h = true ∧ d.fin p = true := by
  rw [legalRequest, Bool.and_eq_true_iff, Bool.and_eq_true_iff, and_assoc]

theorem legalRequest_eq_false_iff {α : Type} {d : NumDomain α} {w h p : α} :
    legalRequest d w h p = false ↔ d.pos w = false ∨ d.pos h = false ∨ d.fin p = false := by
  rw [legalRequest, Bool.and_eq_false_iff, Bool.and_eq_false_iff, or_assoc]

/-! ## `GEOM` (R163), beside `exec_geom_of_runs` -/

theorem exec_geom_of_no_runs {s : State} (h : s.runs = none) : exec .geom s = .next (finish .notReady s) := by
  simp [exec, execGeom, h, raise, errorFlags]

theorem exec_geom_of_illegal {s : State} {rs : List Run} (h : s.runs = some rs)
    (hillegal : legalRequest (numDomain s.cfg.num) s.width s.height s.padding = false) :
    exec .geom s = .next (finish .invalidGeometryRequest (clearGeometry s)) := by
  simp [exec, execGeom, h, hillegal, raise, errorFlags]

/-- The canvas of a geometry (R164). -/
theorem geometry_canvas {α : Type} (d : NumDomain α) (rs : List Run) (w h p : α) :
    (geometry d rs w h p).canvasW = d.add w (d.mul (d.ofNat 2) p) ∧
      (geometry d rs w h p).canvasH = d.add h (d.mul (d.ofNat 2) p) := ⟨rfl, rfl⟩

/-! ## `pos` and `fin` of each format (R160) -/

theorem binary64_pos_iff {x : Number} : binary64Domain.pos x = true ↔ ∃ q, x = .rat q ∧ 0 < q := by
  cases x <;> simp [binary64Domain]

theorem binary64_fin_iff {x : Number} (h : isNum .binary64 x = true) :
    binary64Domain.fin x = true ↔ x ≠ .nan ∧ x ≠ .inf true ∧ x ≠ .inf false := by
  cases x with
  | token n => cases h
  | inf neg => cases neg <;> simp [binary64Domain]
  | _ => simp [binary64Domain]

/-- A positive value is finite, in every format. -/
theorem numDomain_fin_of_pos {fmt : NumFormat} {x : Number} (h : (numDomain fmt).pos x = true) :
    (numDomain fmt).fin x = true := by
  have hrat : posRat x = true → finRat x = true := by cases x <;> simp [posRat, finRat, ratDomain]
  cases fmt with
  | exact => exact hrat h
  | fixedPoint f => exact hrat h
  | binary64 => obtain ⟨q, rfl, -⟩ := binary64_pos_iff.mp h; rfl
  | other id last =>
    cases x with
    | token n => exact (Bool.and_eq_true_iff.mp h).1
    | _ => cases h

/-- The formats whose numbers are rationals. -/
theorem numDomain_rat {fmt : NumFormat} (q : ℚ) (h : fmt = .exact ∨ fmt = .binary64 ∨ ∃ f, fmt = .fixedPoint f) :
    (numDomain fmt).fin (.rat q) = true ∧ ((numDomain fmt).pos (.rat q) = true ↔ 0 < q) := by
  rcases h with rfl | rfl | ⟨f, rfl⟩ <;> exact ⟨rfl, decide_eq_true_iff⟩

/-- No infinity, no zero of either sign and no not-a-number is positive (95_test_vectors.md V26). -/
theorem binary64_pos_eq_false {x : Number} (h : x ∈ [.nan, .inf true, .inf false, .negZero, .rat 0]) :
    binary64Domain.pos x = false := by
  rw [← Bool.not_eq_true, binary64_pos_iff]
  rintro ⟨q, rfl, hq⟩
  obtain rfl : q = 0 := by simpa using h
  exact lt_irrefl 0 hq

theorem binary64_fin_eq_false {x : Number} (h : x ∈ [.nan, .inf true, .inf false]) : binary64Domain.fin x = false := by
  simp only [List.mem_cons, List.not_mem_nil, or_false] at h
  rcases h with rfl | rfl | rfl <;> rfl

theorem binary64_fin_of_finite {x : Number} (h : x = .negZero ∨ ∃ p, x = .rat p) : binary64Domain.fin x = true := by
  rcases h with rfl | ⟨p, rfl⟩ <;> rfl

/-! ## The exact format computes in ℚ -/

theorem cursorAfter_exact (m x : ℚ) (rs : List Run) :
    cursorAfter exactDomain (.rat m) (.rat x) rs = .rat (cursorAfter ratDomain m x rs) := by
  induction rs generalizing x with
  | nil => rfl
  | cons r rs ih => exact ih _

theorem moduleWidth_exact (rs : List Run) (w : ℚ) :
    moduleWidth exactDomain rs (.rat w) = .rat (moduleWidth ratDomain rs w) := rfl

theorem enlarge_exact (x p : ℚ) : enlarge exactDomain (.rat x) (.rat p) = .rat (x + 2 * p) := by
  simp [enlarge, exactDomain, ratDomain]

theorem legalRequest_exact {w h p : ℚ} : legalRequest exactDomain (.rat w) (.rat h) (.rat p) = true ↔ 0 < w ∧ 0 < h := by
  simp [legalRequest_eq_true_iff, exactDomain]

/-- The rectangle of the inked run `i` of an exact geometry (R165 (b)). -/
theorem geometry_exact_rect {rs : List Run} {i : Nat} {r : Run} (w p : ℚ) (h : Number) (hr : rs[i]? = some r)
    (hfill : r.fill = true) :
    (geometry exactDomain rs (.rat w) h (.rat p)).rects[(rs.take i).countP Run.fill]? =
      some { x := .rat (p + totalWidth (rs.take i) * w / totalWidth rs), w := .rat (r.width * w / totalWidth rs) } := by
  have hwalk := walkRuns_getElem? exactDomain (moduleWidth exactDomain rs (.rat w)) (.rat p) rs i r hr hfill
  rw [moduleWidth_exact, cursorAfter_exact, cursorAfter_rat] at hwalk
  have hcursor : p + totalWidth (rs.take i) * moduleWidth ratDomain rs w =
      p + totalWidth (rs.take i) * w / totalWidth rs := by rw [mul_div_assoc]; rfl
  have hproduct : exactDomain.mul (exactDomain.ofNat r.width) (.rat (moduleWidth ratDomain rs w)) =
      .rat (r.width * w / totalWidth rs) := by rw [mul_div_assoc]; rfl
  rw [hcursor, hproduct] at hwalk
  exact hwalk

/-! ## The walk in ℚ -/

theorem moduleWidth_rat_pos {rs : List Run} {w : ℚ} (hw : 0 < w) (hwidth : totalWidth rs ≠ 0) :
    0 < moduleWidth ratDomain rs w := div_pos hw (Nat.cast_pos.mpr (Nat.pos_of_ne_zero hwidth))

/-- The scaled modules together are as wide as the target (R165 (a)). -/
theorem totalWidth_mul_moduleWidth {rs : List Run} (w : ℚ) (hwidth : totalWidth rs ≠ 0) :
    (totalWidth rs : ℚ) * moduleWidth ratDomain rs w = w := mul_div_cancel₀ w (Nat.cast_ne_zero.mpr hwidth)

theorem scaledWidth_pos {m : ℚ} (hm : 0 < m) {r : Run} (hr : 1 ≤ r.width) : 0 < (r.width : ℚ) * m :=
  mul_pos (Nat.cast_pos.mpr hr) hm

theorem sum_scaledWidths (m : ℚ) (rs : List Run) :
    (rs.map fun r => (r.width : ℚ) * m).sum = (totalWidth rs : ℚ) * m := by
  induction rs with
  | nil => simp
  | cons r rs ih => rw [List.map_cons, List.sum_cons, ih, totalWidth_cons, Nat.cast_add, add_mul]

theorem walkRuns_rat_cons (m x : ℚ) (r : Run) (rs : List Run) :
    walkRuns ratDomain m x (r :: rs) =
      (if r.fill then [⟨x, r.width * m⟩] else []) ++ walkRuns ratDomain m (x + r.width * m) rs := walkRuns_cons ..

/-- Every rectangle has a width and lies within the walk (R165 (d)). -/
theorem walkRuns_rat_bounds {m : ℚ} (hm : 0 < m) {rs : List Run} (hrs : ∀ r ∈ rs, 1 ≤ r.width) (x : ℚ) :
    ∀ b ∈ walkRuns ratDomain m x rs, x ≤ b.x ∧ 0 < b.w ∧ b.x + b.w ≤ x + totalWidth rs * m := by
  induction rs generalizing x with
  | nil => simp
  | cons r rs ih =>
    obtain ⟨hr, htail⟩ := List.forall_mem_cons.mp hrs
    have hstep := scaledWidth_pos hm hr
    have hrest : 0 ≤ (totalWidth rs : ℚ) * m := by positivity
    have htotal : x + (totalWidth (r :: rs) : ℚ) * m = x + r.width * m + totalWidth rs * m := by
      rw [totalWidth_cons]; push_cast; ring
    intro b hb
    rw [htotal]
    rw [walkRuns_rat_cons, List.mem_append] at hb
    rcases hb with hb | hb
    · obtain ⟨-, rfl⟩ : r.fill = true ∧ b = ⟨x, r.width * m⟩ := by simpa using hb
      exact ⟨le_rfl, hstep, le_add_of_nonneg_right hrest⟩
    · obtain ⟨hleft, hpos, hright⟩ := ih htail _ b hb
      exact ⟨by linarith, hpos, hright⟩

/-- The rectangles are disjoint and stand in order (R165 (c)): what follows a rectangle is walked from its end. -/
theorem walkRuns_rat_ordered {m : ℚ} (hm : 0 < m) {rs : List Run} (hrs : ∀ r ∈ rs, 1 ≤ r.width) (x : ℚ) :
    (walkRuns ratDomain m x rs).Pairwise fun a b => a.x + a.w ≤ b.x ∧ a.x < b.x := by
  induction rs generalizing x with
  | nil => exact .nil
  | cons r rs ih =>
    obtain ⟨hr, htail⟩ := List.forall_mem_cons.mp hrs
    have hstep := scaledWidth_pos hm hr
    rw [walkRuns_rat_cons]
    cases r.fill with
    | false => exact ih htail _
    | true =>
      refine .cons (fun b hb => ?_) (ih htail _)
      obtain ⟨hleft, -, -⟩ := walkRuns_rat_bounds hm htail _ b hb
      exact ⟨hleft, (lt_add_of_pos_right x hstep).trans_le hleft⟩

/-! ## What a renderer reads (R168) -/

theorem drawing_of_geo {s : State} {g : Geometry Number} (h : s.geo = some g) :
    drawing s = some (background g s ++ bars g s) := by rw [drawing, h]; rfl

theorem background_absent {s : State} (g : Geometry Number) (h : s.bgColor = none) : background g s = [] := by
  rw [background, h]

theorem background_present {s : State} (g : Geometry Number) {c : Colour} (h : s.bgColor = some c) :
    background g s = [⟨(numDomain s.cfg.num).ofNat 0, (numDomain s.cfg.num).ofNat 0, g.canvasW, g.canvasH, c⟩] := by
  rw [background, h]

end Sys2Proof.Machine

namespace Sys2Proof.Proofs

open Sys2Proof.Machine Sys2Proof.Claims

/-- Settles O26: the cursor of run `i` is the one after the runs before it. -/
theorem geomResult : Obligations.GeomResult := by
  refine fun s => ⟨by decide, exec_geom_of_no_runs, fun rs hrs hwidth hlegal => ?_⟩
  refine ⟨geometryOf rs s, exec_geom_of_runs hrs hlegal hwidth, rfl, rfl, geometryOf_rects_length rs s,
    moduleWidth (numDomain s.cfg.num) rs s.width,
    fun i => cursorAfter (numDomain s.cfg.num) (moduleWidth (numDomain s.cfg.num) rs s.width) s.padding (rs.take i),
    rfl, rfl, fun i r hr => ⟨cursorAfter_take_succ _ _ _ rs i r hr, walkRuns_getElem? _ _ _ rs i r hr⟩⟩

/-- Settles O43: `GEOM` is legal or not by `pos` and `fin` alone, whose true values are known in each named format. -/
theorem illegalGeometryRequests : Obligations.IllegalGeometryRequests := by
  refine ⟨fun s rs hrs hbad => exec_geom_of_illegal hrs (legalRequest_eq_false_iff.mpr hbad), ?exact,
    fun _ _ => numDomain_fin_of_pos, fun _ => numDomain_rat, fun _ hx => ⟨binary64_fin_iff hx, binary64_pos_iff⟩, ?binary64⟩
  case exact =>
    intro s rs w h p hrs hwidth hfmt hw hh hp
    have hlegal : legalRequest (numDomain s.cfg.num) s.width s.height s.padding = true ↔ 0 < w ∧ 0 < h := by
      rw [hfmt, hw, hh, hp]; exact legalRequest_exact
    constructor
    · intro hbad
      have hillegal : ¬ (0 < w ∧ 0 < h) := fun ⟨hw, hh⟩ => hbad.elim hw.not_ge hh.not_ge
      exact ⟨_, exec_geom_of_illegal hrs (Bool.eq_false_iff.mpr (mt hlegal.mp hillegal)), rfl, rfl⟩
    · exact fun hw hh => ⟨_, exec_geom_of_runs hrs (hlegal.mpr ⟨hw, hh⟩) hwidth, rfl, rfl⟩
  case binary64 =>
    intro s rs hrs hwidth hfmt
    have hdomain : numDomain s.cfg.num = binary64Domain := by rw [hfmt]; rfl
    constructor
    · intro hbad
      refine exec_geom_of_illegal hrs ?_
      rw [hdomain, legalRequest_eq_false_iff]
      exact hbad.imp binary64_pos_eq_false (Or.imp binary64_pos_eq_false binary64_fin_eq_false)
    · intro w h hw hh hwpos hhpos hp
      have hlegal : legalRequest (numDomain s.cfg.num) s.width s.height s.padding = true := by
        rw [hdomain, legalRequest_eq_true_iff]
        exact ⟨binary64_pos_iff.mpr ⟨w, hw, hwpos⟩, binary64_pos_iff.mpr ⟨h, hh, hhpos⟩, binary64_fin_of_finite hp⟩
      exact ⟨_, exec_geom_of_runs hrs hlegal hwidth, rfl, rfl⟩

/-- Settles O44: in the exact format the cursor is the number of modules passed, scaled. -/
theorem geometryClosedForm : Obligations.GeometryClosedForm := by
  intro s rs w h p hrs hwidth hfmt hw hh hp hwpos hhpos
  have hgeo : geometryOf rs s = geometry exactDomain rs (.rat w) (.rat h) (.rat p) := by
    rw [geometryOf, hfmt, hw, hh, hp, numDomain_exact]
  have hlegal : legalRequest (numDomain s.cfg.num) s.width s.height s.padding = true := by
    rw [hfmt, hw, hh, hp]; exact legalRequest_exact.mpr ⟨hwpos, hhpos⟩
  refine ⟨_, geometryOf rs s, exec_geom_of_runs hrs hlegal hwidth, rfl, geometryOf_rects_length rs s, ?_⟩
  rw [hgeo]
  exact ⟨enlarge_exact w p, enlarge_exact h p, fun i r hr hfill => geometry_exact_rect w p (.rat h) hr hfill⟩

/-- Settles O45: the walk starts at the padding and covers the target width. -/
theorem geometryCoverage : Obligations.GeometryCoverage := by
  intro rs w h p hw hwidth hrs
  have hm := moduleWidth_rat_pos hw hwidth
  have hcover := totalWidth_mul_moduleWidth w hwidth
  refine ⟨(sum_scaledWidths _ rs).trans hcover, (walkRuns_rat_ordered hm hrs p).isChain, fun b hb => ?_⟩
  have hbounds := walkRuns_rat_bounds hm hrs p b hb
  rwa [hcover] at hbounds

/-- Settles O42: no field of the canvas is computed from the runs. -/
theorem canvasSize : Obligations.CanvasSize := by
  refine ⟨fun α d rs₁ rs₂ w h p => ?_, fun rs => ?_⟩
  · obtain ⟨hw, hh⟩ := geometry_canvas d rs₁ w h p
    exact ⟨hw, hh, rfl, rfl⟩
  · obtain ⟨hw₀, hh₀⟩ := geometry_canvas ratDomain rs 120 35 0
    obtain ⟨hw₅, hh₅⟩ := geometry_canvas ratDomain rs 120 35 5
    rw [hw₀, hh₀, hw₅, hh₅]
    norm_num [ratDomain]

/-- Settles O48: the background comes before the bars, when there is one. -/
theorem drawingOrder : Obligations.DrawingOrder := by
  refine fun s g hg => ⟨fun hbg => ?_, fun c hbg => ?_⟩
  · rw [drawing_of_geo hg, background_absent g hbg, List.nil_append, bars]
  · rw [drawing_of_geo hg, background_present g hbg, List.singleton_append, bars]

end Sys2Proof.Proofs

/-! SUPPORT. Why a command raises each error, that it then raises it, and that error entry leaves the reason standing
(60_exceptions.md R203 to R209). -/

namespace Sys2Proof.Machine

/-! ## Error entry (60_exceptions.md R205) -/

/-- The reasons for which the command word `w` raises an error in state `s` (60_exceptions.md R203, table R205-T). -/
inductive Raises (s : State) (w : CmdWord) : CmdResult → Prop
  | illegalWord {why : Illegal} (hw : decodeCmd w = .illegal why) : Raises s w .illegalCommand
  | fullText {c : Imm8} (hw : decodeCmd w = .instr (.push c)) (hfull : textFull s = true) : Raises s w .textOverflow
  | unknownCode {c : Imm8} (hw : decodeCmd w = .instr (.luc c)) (hc : lookupChar c = none) : Raises s w (.unknownSymbol c 0)
  | noSuchValue {v : Imm8} (hw : decodeCmd w = .instr (.luv v)) (hv : 47 ≤ v.toNat) : Raises s w .illegalOperand
  | zeroWeight (hw : decodeCmd w = .instr (.csum 0#8)) : Raises s w .illegalOperand
  | unknownInText {m : Imm8} (hw : decodeCmd w = .instr (.csum m)) (hm : m ≠ 0#8) {c : Code} {p : Nat}
      (hbad : firstFailure isValued s.txt = some (c, p)) : Raises s w (.unknownSymbol c p)
  | emptyText (hw : decodeCmd w = .instr .enc) (htxt : s.txt = []) : Raises s w .emptyInput
  | invalidInText (hw : decodeCmd w = .instr .enc) {c : Code} {p : Nat} (hbad : firstFailure isUser s.txt = some (c, p)) :
      Raises s w (.invalidCharacter c p)
  | noEncoding (hw : decodeCmd w = .instr .runs) (henc : s.enc = none) : Raises s w .notReady
  | noRuns (hw : decodeCmd w = .instr .geom) (hruns : s.runs = none) : Raises s w .notReady
  | illegalRequest (hw : decodeCmd w = .instr .geom) {rs : List Run} (hruns : s.runs = some rs)
      (hillegal : legalRequest (numDomain s.cfg.num) s.width s.height s.padding = false) : Raises s w .invalidGeometryRequest

/-- A reason to raise an error is enough: the command ends with error entry. -/
theorem Raises.serve {s : State} {w : CmdWord} {e : CmdResult} (h : Raises s w e) :
    serve (.cmd w) s = .next (finish e (errorFlags e s)) := by
  cases h with
  | illegalWord hw => exact serve_illegal hw s
  | fullText hw hfull => exact (serve_cmd hw s).trans (exec_push_of_full hfull)
  | unknownCode hw hc => exact (serve_cmd hw s).trans (exec_luc_of_none hc s)
  | noSuchValue hw hv => exact (serve_cmd hw s).trans (exec_luv_of_ge hv s)
  | zeroWeight hw => exact (serve_cmd hw s).trans (exec_csum_zero s)
  | unknownInText hw hm hbad => exact (serve_cmd hw s).trans (exec_csum_of_failure hm hbad)
  | emptyText hw htxt => exact (serve_cmd hw s).trans (exec_enc_of_error (by rw [htxt]; rfl))
  | invalidInText hw hbad => exact (serve_cmd hw s).trans (exec_enc_of_error (encodeText_of_failure hbad))
  | noEncoding hw henc => exact (serve_cmd hw s).trans (exec_runs_of_no_enc henc)
  | noRuns hw hruns => exact (serve_cmd hw s).trans (exec_geom_of_no_runs hruns)
  | illegalRequest hw hruns hillegal => exact (serve_cmd hw s).trans (exec_geom_of_illegal hruns hillegal)

/-- A command that does not end with `OK` had one of the reasons. -/
theorem raises_of_exec {w : CmdWord} {i : Instr} {s t : State} (hw : decodeCmd w = .instr i) (h : exec i s = .next t)
    (herr : t.err ≠ .ok) : Raises s w t.err := by
  cases isCommand_of_decodeCmd hw with
  | clr =>
    rw [execClr_cases h] at herr
    exact absurd rfl herr
  | push c =>
    rcases execPush_cases h with ⟨hfull, rfl⟩ | ⟨-, rfl⟩
    · exact .fullText hw hfull
    · exact absurd rfl herr
  | luc c =>
    rcases execLuc_cases h with ⟨hc, rfl⟩ | ⟨y, -, rfl⟩
    · exact .unknownCode hw hc
    · exact absurd rfl herr
  | luv v =>
    rcases execLuv_cases h with ⟨hv, rfl⟩ | ⟨-, rfl⟩
    · exact .noSuchValue hw hv
    · exact absurd rfl herr
  | csum m =>
    rcases execCsum_cases h with ⟨hm, rfl⟩ | ⟨hm, c, p, hbad, rfl⟩ | ⟨-, -, rfl⟩
    · obtain rfl : m = 0#8 := BitVec.eq_of_toNat_eq hm
      exact .zeroWeight hw
    · exact .unknownInText hw (by rintro rfl; cases hm) hbad
    · exact absurd rfl herr
  | enc =>
    rcases execEnc_cases h with ⟨x, -, rfl⟩ | ⟨htxt, rfl⟩ | ⟨c, p, hbad, rfl⟩
    · exact absurd rfl herr
    · exact .emptyText hw htxt
    · exact .invalidInText hw hbad
  | runs =>
    rcases execRuns_cases h with ⟨henc, rfl⟩ | ⟨x, -, -, rfl⟩
    · exact .noEncoding hw henc
    · exact absurd rfl herr
  | geom =>
    rcases execGeom_cases h with ⟨hruns, rfl⟩ | ⟨rs, hruns, hillegal, rfl⟩ | ⟨rs, -, -, -, rfl⟩
    · exact .noRuns hw hruns
    · exact .illegalRequest hw hruns hillegal
    · exact absurd rfl herr

/-- A command word that ends with an error had a reason to raise it, and what it leaves is error entry alone. -/
theorem serve_cmd_error {w : CmdWord} {s t : State} {e : CmdResult} (h : serve (.cmd w) s = .next t) (he : t.err = e)
    (hne : e ≠ .ok) : Raises s w e ∧ t = finish e (errorFlags e s) := by
  subst he
  have hraises : Raises s w t.err := by
    rcases serveCmd_cases h with ⟨i, hw, -, hexec⟩ | ⟨why, hw, rfl⟩
    · exact raises_of_exec hw hexec hne
    · exact .illegalWord hw
  exact ⟨hraises, Host.Outcome.next.inj (h.symm.trans hraises.serve)⟩

/-! ## After error entry (60_exceptions.md R209) -/

/-- Error entry clears no state that the reason for the error rests on. -/
theorem Raises.again {s : State} {w : CmdWord} {e : CmdResult} (h : Raises s w e) :
    Raises (finish e (errorFlags e s)) w e := by
  cases h with
  | illegalWord hw => exact .illegalWord hw
  | fullText hw hfull => exact .fullText hw hfull
  | unknownCode hw hc => exact .unknownCode hw hc
  | noSuchValue hw hv => exact .noSuchValue hw hv
  | zeroWeight hw => exact .zeroWeight hw
  | unknownInText hw hm hbad => exact .unknownInText hw hm hbad
  | emptyText hw htxt => exact .emptyText hw htxt
  | invalidInText hw hbad => exact .invalidInText hw hbad
  | noEncoding hw henc => exact .noEncoding hw henc
  | noRuns hw hruns => exact .noRuns hw hruns
  | illegalRequest hw hruns hillegal => exact .illegalRequest hw hruns hillegal

/-- Error entry for an error that stands already changes nothing. -/
theorem finish_errorFlags_twice (e : CmdResult) (s : State) :
    finish e (errorFlags e (finish e (errorFlags e s))) = finish e (errorFlags e s) := by
  cases e <;> rfl

/-! ## The payload of the record (10_state.md R22) -/

/-- Codes 2 and 3 are those of the two errors with a payload. -/
theorem exists_payload_of_code {r : CmdResult} (h : r.code = 2#4 ∨ r.code = 3#4) :
    ∃ c p, r = .invalidCharacter c p ∨ r = .unknownSymbol c p := by
  cases r with
  | invalidCharacter c p => exact ⟨c, p, .inl rfl⟩
  | unknownSymbol c p => exact ⟨c, p, .inr rfl⟩
  | _ => exact absurd h (by decide)

/-- `ECHAR` and `EPOS` can be read exactly while `ERR` is 2 or 3. -/
theorem readSpace_errorPayload_iff (s : State) :
    (s.err.code = 2#4 ∨ s.err.code = 3#4 ↔ readSpace 0 1 s ≠ .noValue) ∧
      (s.err.code = 2#4 ∨ s.err.code = 3#4 ↔ readSpace 0 2 s ≠ .noValue) := by
  by_cases h : s.err.code = 2#4 ∨ s.err.code = 3#4
  · obtain ⟨c, p, hpayload⟩ := exists_payload_of_code h
    obtain ⟨hchar, hpos⟩ := readSpace_errorPayload hpayload
    simp [h, hchar, hpos]
  · obtain ⟨h2, h3⟩ := not_or.mp h
    obtain ⟨hchar, hpos⟩ := readSpace_noErrorPayload h2 h3
    simp [h, hchar, hpos]

end Sys2Proof.Machine

namespace Sys2Proof.Proofs

open Sys2Proof.Machine

/-- Settles O16: the reasons for each error name its commands, and what is left is error entry. -/
theorem errorEntryChangesOnlyItsRow : Obligations.ErrorEntryChangesOnlyItsRow := by
  intro s w t h
  refine ⟨fun he => ?emptyInput, fun c p he => ?invalidCharacter, fun c p he => ?unknownSymbol,
    fun he => ?invalidGeometryRequest, fun he => ?illegalCommand, fun he => ?illegalOperand, fun he => ?notReady,
    fun he => ?textOverflow, readSpace_errorPayload_iff t⟩
  all_goals obtain ⟨hraises, ht⟩ := serve_cmd_error h he nofun
  case emptyInput =>
    cases hraises with
    | emptyText hw => exact ⟨hw, ht⟩
  case invalidCharacter =>
    cases hraises with
    | invalidInText hw hbad => exact ⟨hw, (firstFailure_eq_some.mp hbad).1, ht⟩
  case unknownSymbol =>
    cases hraises with
    | unknownCode hw => exact ⟨.inl ⟨hw, rfl⟩, ht⟩
    | unknownInText hw _ hbad => exact ⟨.inr ⟨_, hw, (firstFailure_eq_some.mp hbad).1⟩, ht⟩
  case invalidGeometryRequest =>
    cases hraises with
    | illegalRequest hw => exact ⟨hw, ht⟩
  case illegalCommand =>
    cases hraises with
    | illegalWord hw => exact ⟨⟨_, hw⟩, ht⟩
  case illegalOperand =>
    cases hraises with
    | noSuchValue hw => exact ⟨.inl ⟨_, hw⟩, ht⟩
    | zeroWeight hw => exact ⟨.inr ⟨_, hw⟩, ht⟩
  case notReady =>
    cases hraises with
    | noEncoding hw => exact ⟨.inl hw, ht⟩
    | noRuns hw => exact ⟨.inr hw, ht⟩
  case textOverflow =>
    cases hraises with
    | fullText hw => exact ⟨⟨_, hw⟩, ht⟩

/-- Settles O18: the reason still stands, and error entry a second time changes nothing. -/
theorem failedCommandFailsAgain : Obligations.FailedCommandFailsAgain := by
  intro s w t h hne
  obtain ⟨hraises, ht⟩ := serve_cmd_error h rfl hne
  have hagain := hraises.again.serve
  rwa [finish_errorFlags_twice, ← ht] at hagain

end Sys2Proof.Proofs

/-! SUPPORT. That every event is served to completion under the invariant, and what cannot be read while a result is absent. -/

namespace Sys2Proof.Machine

open Sys2Proof.Claims

/-! ## Nothing stops (93_implementation_defined.md Part 1) -/

theorem StateInv.bits_ne_nil {s : State} (h : StateInv s) {x : Encoded} (hx : s.enc = some x) : x.bits ≠ [] :=
  List.ne_nil_of_length_eq_add_one (h.bits_length hx)

theorem StateInv.totalWidth_ne_zero {s : State} (h : StateInv s) {rs : List Run} (hrs : s.runs = some rs) :
    Machine.totalWidth rs ≠ 0 := by
  rw [h.totalWidth hrs]
  exact Nat.succ_ne_zero _

/-- `RUNS` and `GEOM` alone can stop, on bits or runs that no state meeting the invariant has (log 14). -/
theorem StateInv.exec_completes {s : State} (h : StateInv s) {i : Instr} (hi : IsCommand i) : ∃ t, exec i s = .next t := by
  cases hi with
  | clr => exact ⟨_, rfl⟩
  | push c =>
    cases hfull : textFull s with
    | true => exact ⟨_, exec_push_of_full hfull⟩
    | false => exact ⟨_, exec_push_of_room hfull⟩
  | luc c =>
    cases hc : lookupChar c with
    | none => exact ⟨_, exec_luc_of_none hc s⟩
    | some y => exact ⟨_, exec_luc_of_some hc s⟩
  | luv v =>
    rcases Nat.lt_or_ge 46 v.toNat with hv | hv
    · exact ⟨_, exec_luv_of_ge hv s⟩
    · exact ⟨_, exec_luv_of_le hv s⟩
  | csum m =>
    by_cases hm : m = 0#8
    · exact ⟨_, hm ▸ exec_csum_zero s⟩
    cases hbad : firstFailure isValued s.txt with
    | none => exact ⟨_, exec_csum_of_values hm (forall₂_valuesOf (firstFailure_eq_none.mp hbad))⟩
    | some failure => exact ⟨_, exec_csum_of_failure hm hbad⟩
  | enc => exact execEnc_completes s
  | runs =>
    cases henc : s.enc with
    | none => exact ⟨_, exec_runs_of_no_enc henc⟩
    | some x => exact ⟨_, exec_runs_of_enc henc (h.bits_ne_nil henc)⟩
  | geom =>
    cases hruns : s.runs with
    | none => exact ⟨_, exec_geom_of_no_runs hruns⟩
    | some rs =>
      cases hlegal : legalRequest (numDomain s.cfg.num) s.width s.height s.padding with
      | false => exact ⟨_, exec_geom_of_illegal hruns hlegal⟩
      | true => exact ⟨_, exec_geom_of_runs hruns hlegal (h.totalWidth_ne_zero hruns)⟩

theorem StateInv.serve_completes {s : State} (h : StateInv s) (e : Event) : ∃ t, serve e s = .next t := by
  cases e with
  | cmd w =>
    cases hw : decodeCmd w with
    | instr i =>
      rw [serve_cmd hw]
      exact h.exec_completes (isCommand_of_decodeCmd hw)
    | illegal why => exact ⟨_, serve_illegal hw s⟩
  | wr space index v => exact ⟨_, rfl⟩
  | rd space index => exact ⟨_, rfl⟩
  | reset => exact ⟨_, rfl⟩

/-! ## The error record on the bus (10_state.md R22) -/

/-- `ECHAR` and `EPOS` show the error record and nothing else. -/
theorem readSpace_errorPayload_congr {s t : State} (h : t.err = s.err) :
    readSpace 0 1 t = readSpace 0 1 s ∧ readSpace 0 2 t = readSpace 0 2 s := by simp [readSpace, readReg, h]

/-- `RD` and `WR` leave the error record (70_reset_and_hazards.md R248). -/
theorem serve_bus_err {s t : State} {space index : Nat} {v : Value}
    (h : serve (.wr space index v) s = .next t ∨ serve (.rd space index) s = .next t) : t.err = s.err := by
  rcases h with h | h
  · obtain rfl : busWrite space index v s = t := Host.Outcome.next.inj h
    exact busWrite_err space index v s
  · obtain rfl : busRead space index s = t := Host.Outcome.next.inj h
    exact busRead_err space index s

/-! ## Buffers without an element (20_memory.md R43) -/

theorem unreadable_readBuffer_none (cap : Option Nat) (index : Nat) : Unreadable (readBuffer cap index none) := by
  unfold readBuffer
  split
  · exact .inr rfl
  · exact .inl rfl

theorem unreadable_txt {s : State} (h : s.txt = []) (index : Nat) : Unreadable (readSpace 3 index s) := by
  simpa [readSpace, h] using unreadable_readBuffer_none (textCapacity s.cfg) index

theorem unreadable_bits {s : State} (h : s.enc = none) (index : Nat) : Unreadable (readSpace 4 index s) := by
  simpa [readSpace, h] using unreadable_readBuffer_none (bitCapacity s.cfg) index

theorem unreadable_runBuffers {s : State} (h : s.runs = none) (index : Nat) :
    Unreadable (readSpace 5 index s) ∧ Unreadable (readSpace 6 index s) := by
  simpa [readSpace, h] using unreadable_readBuffer_none (runCapacity s.cfg) index

theorem unreadable_rectBuffers {s : State} (h : s.geo = none) (index : Nat) :
    Unreadable (readSpace 7 index s) ∧ Unreadable (readSpace 8 index s) := by
  simpa [readSpace, h] using unreadable_readBuffer_none (rectCapacity s.cfg) index

/-- With the three flags 0 there is nothing of the results to read. -/
theorem resultsUnreadable_of_none {s : State} (henc : s.enc = none) (hruns : s.runs = none) (hgeo : s.geo = none) :
    ResultsUnreadable s := by
  constructor
  · intro index h7 h13
    obtain ⟨hcsym, hksym, hnbits⟩ := readSpace_noEnc henc
    have hnruns := readSpace_noRuns hruns
    obtain ⟨hnrect, hcanvasw, hcanvash⟩ := readSpace_noGeo hgeo
    interval_cases index <;> assumption
  · intro space index h4 h8
    have hbits := unreadable_bits henc index
    obtain ⟨hrunf, hrunw⟩ := unreadable_runBuffers hruns index
    obtain ⟨hrectx, hrectw⟩ := unreadable_rectBuffers hgeo index
    interval_cases space <;> assumption

/-! ## Results that appear (70_reset_and_hazards.md R246, R247) -/

/-- What an event keeps or takes away appears by the one event that writes it. -/
theorem eq_of_appears {α : Type} {old new : Option α} {p : Prop} (hkept : new = old ∨ new = none ∨ p) (hold : old = none)
    (hnew : new ≠ none) : p :=
  (hkept.resolve_left fun heq => hnew (heq.trans hold)).resolve_left hnew

theorem Served.enc_appears {s t : State} {e : Event} (h : Served s e t) (hs : s.enc = none) (ht : t.enc ≠ none) :
    e = .cmd 0x5000#16 := eq_of_appears h.enc_kept hs ht

theorem Served.runs_appear {s t : State} {e : Event} (h : Served s e t) (hs : s.runs = none) (ht : t.runs ≠ none) :
    e = .cmd 0x6000#16 := eq_of_appears h.runs_kept hs ht

theorem Served.geo_appears {s t : State} {e : Event} (h : Served s e t) (hs : s.geo = none) (ht : t.geo ≠ none) :
    e = .cmd 0x7000#16 := eq_of_appears h.geo_kept hs ht

/-! ## Changes of the text and of the configuration (70_reset_and_hazards.md R246, R247) -/

/-- `CLR`, a `PUSH` that stores and an `ENC` that fails clear the three flags (10_state.md, table R28-T). -/
theorem exec_clears_results {i : Instr} {s t : State}
    (hi : i = .clr ∨ (∃ c, i = .push c ∧ t.err = .ok) ∨ (i = .enc ∧ t.err ≠ .ok)) (h : exec i s = .next t) :
    t.enc = none ∧ t.runs = none ∧ t.geo = none := by
  rcases hi with rfl | ⟨c, rfl, hok⟩ | ⟨rfl, herr⟩
  · rw [execClr_cases h]
    exact ⟨rfl, rfl, rfl⟩
  · rcases execPush_cases h with ⟨-, rfl⟩ | ⟨-, rfl⟩
    · cases hok
    · exact ⟨rfl, rfl, rfl⟩
  · rcases execEnc_cases h with ⟨x, -, rfl⟩ | ⟨-, rfl⟩ | ⟨c, p, -, rfl⟩
    · exact absurd rfl herr
    · exact ⟨rfl, rfl, rfl⟩
    · exact ⟨rfl, rfl, rfl⟩

/-- A `WR` of a configuration register with a value of its type is taken, whatever the register holds (20_memory.md R42). -/
theorem busWrite_taken {s : State} {space index : Nat} {v : Value} (h : IsConfigWrite s.cfg space index v) :
    ∃ wd ht pd f b, busWrite space index v s = reconfigure wd ht pd f b s := by
  obtain ⟨rfl, ⟨rfl | rfl | rfl, x, rfl, hx⟩ | ⟨rfl, c, rfl, hc⟩ | ⟨rfl, c, rfl, hc⟩⟩ := h
  · exact ⟨_, _, _, _, _, busWrite_width hx⟩
  · exact ⟨_, _, _, _, _, busWrite_height hx⟩
  · exact ⟨_, _, _, _, _, busWrite_padding hx⟩
  · exact ⟨_, _, _, _, _, busWrite_fillColor hc⟩
  · exact ⟨_, _, _, _, _, busWrite_bgColor hc⟩

/-! ## Reset (10_state.md, table R29-T) -/

/-- In the formats whose numbers are rationals the reset values are these rationals. -/
theorem numDomain_resetValues {fmt : NumFormat} (h : ∀ id last, fmt ≠ .other id last) :
    (numDomain fmt).ofNat 200 = .rat 200 ∧ (numDomain fmt).ofNat 50 = .rat 50 ∧ (numDomain fmt).ofNat 0 = .rat 0 := by
  cases fmt with
  | exact => exact ⟨rfl, rfl, rfl⟩
  | binary64 => decide +kernel
  | fixedPoint f => exact ⟨rfl, rfl, rfl⟩
  | other id last => exact absurd rfl (h id last)

/-- Without an error and without a flag `STATUS` is 0 (10_state.md R21). -/
theorem statusWord_eq_zero {s : State} (herr : s.err = .ok) (hlkv : lkv s = false) (hencv : encv s = false)
    (hrunv : runv s = false) (hgeov : geov s = false) : statusWord s = 0#16 := by
  rw [statusWord, herr, hlkv, hencv, hrunv, hgeov]
  rfl

/-- A reset event leaves the values of the table, whatever the parameters. -/
theorem isResetState_serveReset (s : State) : IsResetState (serveReset s) := by
  obtain ⟨hregisters, hbuffers⟩ : ResultsUnreadable (serveReset s) := resultsUnreadable_of_none rfl rfl rfl
  refine ⟨rfl, statusWord_eq_zero rfl rfl rfl rfl rfl, fun index hindex => ?registers,
    fun space index h3 h8 => ?buffers, rfl, rfl, rfl, rfl, rfl⟩
  case registers =>
    obtain ⟨hval, hchr, hpat⟩ := readSpace_noLookup (serveReset_lookup s)
    rcases hindex with rfl | rfl | ⟨h4, h13⟩
    · rfl
    · rfl
    · rcases Nat.lt_or_ge index 7 with h7 | h7
      · interval_cases index <;> assumption
      · exact hregisters index h7 h13
  case buffers =>
    rcases Nat.eq_or_lt_of_le h3 with rfl | h4
    · exact unreadable_txt rfl index
    · exact hbuffers space index h4 h8

end Sys2Proof.Machine

namespace Sys2Proof.Proofs

open Sys2Proof.Machine

/-- Settles O11: an idle step changes nothing, and the oldest event is served to completion. -/
theorem everyStepCompletes : Obligations.EveryStepCompletes := by
  intro s hs
  cases hinput : s.input with
  | nil => exact ⟨s, step_nil hinput⟩
  | cons e rest =>
    have hrest : StateInv { s with input := rest } := { hs with }
    have hstep : step s = serve e { s with input := rest } := by
      rw [← step_cons, ← hinput]
    rw [hstep]
    exact hrest.serve_completes e

/-- Settles O17: a command answers with the record that it leaves, and a bus transaction leaves the record. -/
theorem errorRecordLastsOneCommand : Obligations.ErrorRecordLastsOneCommand :=
  ⟨fun _ _ t h => ⟨t.err, (serve_served h).resp_of_cmd, rfl, rfl, rfl⟩,
    fun _ _ _ _ _ h => ⟨serve_bus_err h, readSpace_errorPayload_congr (serve_bus_err h)⟩⟩

/-- Settles O55: by the flags these commands clear, and the one event that sets each of them. -/
theorem textChangeInvalidatesResults : Obligations.TextChangeInvalidatesResults := by
  refine ⟨fun i s t hi h => ?_, fun s e t h => (serve_served h).enc_appears, fun s e t h => (serve_served h).runs_appear,
    fun s e t h => (serve_served h).geo_appears⟩
  obtain ⟨henc, hruns, hgeo⟩ := exec_clears_results hi h
  exact resultsUnreadable_of_none henc hruns hgeo

/-- Settles O56: a write that is taken leaves no geometry, and only `GEOM` makes one. -/
theorem configurationChangeInvalidatesGeometryOnly : Obligations.ConfigurationChangeInvalidatesGeometryOnly := by
  refine ⟨fun s index v hv => ?_, fun s e t h => (serve_served h).geo_appears⟩
  obtain ⟨wd, ht, pd, f, b, htaken⟩ := busWrite_taken hv
  rw [htaken]
  have hgeo : (reconfigure wd ht pd f b s).geo = none := rfl
  refine ⟨rfl, fun r h11 h13 => ?_, unreadable_rectBuffers hgeo, rfl, rfl, rfl⟩
  obtain ⟨hnrect, hcanvasw, hcanvash⟩ := readSpace_noGeo hgeo
  interval_cases r <;> assumption

/-- Settles O7: `State.reset` is what a reset event makes of itself, and `CLR` writes no configuration register. -/
theorem resetGivesTheResetState : Obligations.ResetGivesTheResetState :=
  ⟨isResetState_serveReset State.reset, fun s => ⟨_, rfl, isResetState_serveReset s⟩,
    fun _ hnum => numDomain_resetValues hnum, fun _ => ⟨_, rfl, rfl, rfl, rfl, rfl, rfl, rfl, rfl⟩⟩

end Sys2Proof.Proofs
